-- ==== Sys2Proof/Word.lean ====
section
/-! DEFINITION. The word type and the register index type (00_scope.md R6, R7). -/

namespace Sys2Proof

/-- A 32-bit value: XLEN = 32, an instruction word, a program counter (R6, R9, R40). -/
abbrev Word := BitVec 32

/-- A general register's index, 0 to 31 (R7, R22): every 5-bit field value names a register. -/
abbrev RegIx := Fin 32

end Sys2Proof
end

