-- ==== Sys2Proof/Config.lean ====
section
/-! DEFINITION. What is fixed for one core instance: the parameter P_DECODE, which the spec leaves open, and the bounds
of the capacity parameter C (00_scope.md R8, R10). -/

namespace Sys2Proof

/-- The two values of P_DECODE (R10, defined by R74 and R75). -/
inductive DecodeMode where
  /-- Function codes must have the RV32I values (R74). -/
  | strict
  /-- Only the single bit `w[30]` selects the alternative operation (R75). -/
  | lenient
deriving DecidableEq, Repr, Inhabited

/-- P_DECODE of the core at hand. OPEN in the spec (92_eei_decisions.md D6): uninterpreted, no proof can see its value, so
what is proved of `step` holds under both (log entry 1). -/
opaque Config.decodeMode : DecodeMode

/-- The default of the capacity `C`, in words (R8: `capacityWords = 1024`). -/
def Config.defaultCapacity : Nat := 1024

/-- The largest capacity: `0 <= C <= 2^30` (R8). -/
def Config.maxCapacity : Nat := 2 ^ 30

end Sys2Proof
end

