-- ==== Sys2Proof/Machine/State.lean ====
section
/-! DEFINITION. The machine's state as plain data (10_state.md R20), why a step can stop, and the state after reset. -/

namespace Sys2Proof.Machine

/-- The contents of the Program Store: (word index, word) pairs, indices strictly rising, no zero word listed; an index not
listed reads as 0, the store's reset contents (R37, R40; log entries 7 and 8). -/
abbrev Memory := List (Nat × Word)

/-- "The architectural state of the core is exactly four things" (R20). -/
structure State where
  /-- The general registers `x[0..31]` (R21); read and written through `State.readReg` and `State.commit` only. -/
  regs : Vector Word 32
  /-- The program counter, a word index (R26). -/
  pc : Word
  /-- `Store[0..C-1]` (R37, R40). -/
  store : Memory
  /-- The capacity `C` in words (R8, R240, R241). -/
  capacity : Nat
deriving DecidableEq, Repr

/-- Why a step stops. No instruction raises one of these (R220). -/
inductive Fault where
  /-- Raised by `step` alone, when `pc >= C`: the core is Halted and has no step (R90, R102; 93_implementation_defined.md
  item 6 `stuck`). Safe: the hardware takes no step there either (log entry 4). -/
  | halted
deriving DecidableEq, Repr

/-- Why the model gives an instruction no meaning. -/
inductive Refusal where
  /-- An instruction whose arm of `exec` has no meaning yet. Safe. No arm uses it: every instruction has its meaning. -/
  | notModelled (mnemonic : String)
deriving DecidableEq, Repr

/-- The state RESET(c) leaves: registers 0 (R35), pc 0 (R36), capacity `c` and every store word 0 (R37, R240). -/
def State.construct (c : Nat) : State :=
  { regs := Vector.replicate 32 0, pc := 0, store := [], capacity := c }

/-- The machine right after reset with the default capacity (R8, R240; log entry 3). -/
def State.reset : State := State.construct Config.defaultCapacity

end Sys2Proof.Machine
end

