-- ==== Sys2Proof/Machine/Flags.lean ====
section
/-! DEFINITION. The core has no flags (10_state.md R29): a comparison's 0 or 1 goes to a register, and a branch compares two
registers directly. This file holds those comparisons. -/

namespace Sys2Proof.Machine

/-- `bool(c)`: 1 if the condition holds, else 0 (00_scope.md section 4). -/
def boolWord (c : Bool) : Word := if c then 1 else 0

/-- `signed(a) < signed(b)`, two's complement (R13). -/
def signedLess (a b : Word) : Bool := decide (a.toInt < b.toInt)

/-- `unsigned(a) < unsigned(b)`. -/
def unsignedLess (a b : Word) : Bool := decide (a.toNat < b.toNat)

end Sys2Proof.Machine
end

