-- ==== Sys2Proof/Machine/Operands.lean ====
section
/-! DEFINITION. Immediates, shift amounts, links and targets: the operand forms of 30_encoding.md R63 to R69 and the targets
of 42_jumps.md and 45_branches.md. -/

namespace Sys2Proof.Machine

/-- `immI = sext_12(w[31:20])` (R12, R63). -/
def immI (imm : BitVec 12) : Word := imm.signExtend 32

/-- `immU`: the 20 bits above twelve zeros (R64). -/
def immU (imm : BitVec 20) : Word := imm.setWidth 32 <<< 12

/-- `immJ = sext_21` of the jump offset (R12, R65). -/
def immJ (off : BitVec 21) : Word := off.signExtend 32

/-- `immB = sext_13` of the branch offset (R12, R66). -/
def immB (off : BitVec 13) : Word := off.signExtend 32

/-- `floor4(o) = o >>s 2`: division by 4 rounding toward minus infinity (R69; log entry 9). -/
def floor4 (o : Word) : Word := o.sshiftRight 2

/-- A register shift amount: `b & 31` (R160; log entry 12). -/
def shiftAmount (b : Word) : Nat := (b &&& 31#32).toNat

/-- The link `pc' * 4`, modulo 2^32 (R120, R121). -/
def link (pc' : Word) : Word := pc' * 4

/-- JAL: `(pc' - 1) + floor4(immJ)` (R120). -/
def jalTarget (pc' : Word) (off : BitVec 21) : Word := (pc' - 1) + floor4 (immJ off)

/-- JALR: `((a + immI) & ~1) >>u 2` (R121). -/
def jalrTarget (a : Word) (imm : BitVec 12) : Word := ((a + immI imm) &&& 0xFFFFFFFE#32) >>> 2

/-- A taken branch: `pc' + floor4(immB) - 1` (R170). -/
def branchTarget (pc' : Word) (off : BitVec 13) : Word := pc' + floor4 (immB off) - 1

end Sys2Proof.Machine
end

