-- ==== Sys2Proof/Syntax.lean ====
section
/-! DEFINITION. The instructions: one constructor per row of spec/opcode_table.json, with every operand field the row's
encoding has (30_encoding.md R61, R70). Jump and branch offsets are byte offsets, as wide as their immediates (R65, R66). -/

namespace Sys2Proof

/-- The 37 instructions of R3 and the 14 named words of R201 to R205. -/
inductive Instr where
  /-- LUI (R110) -/
  | lui (rd : RegIx) (imm : BitVec 20)
  /-- AUIPC (R111) -/
  | auipc (rd : RegIx) (imm : BitVec 20)
  /-- JAL (R120) -/
  | jal (rd : RegIx) (off : BitVec 21)
  /-- JALR (R121) -/
  | jalr (rd rs1 : RegIx) (imm : BitVec 12)
  /-- ADDI (R130) -/
  | addi (rd rs1 : RegIx) (imm : BitVec 12)
  /-- SLTI (R131) -/
  | slti (rd rs1 : RegIx) (imm : BitVec 12)
  /-- SLTIU (R132) -/
  | sltiu (rd rs1 : RegIx) (imm : BitVec 12)
  /-- XORI (R133) -/
  | xori (rd rs1 : RegIx) (imm : BitVec 12)
  /-- ORI (R134) -/
  | ori (rd rs1 : RegIx) (imm : BitVec 12)
  /-- ANDI (R135) -/
  | andi (rd rs1 : RegIx) (imm : BitVec 12)
  /-- SLLI (R136) -/
  | slli (rd rs1 : RegIx) (shamt : BitVec 5)
  /-- SRLI (R137) -/
  | srli (rd rs1 : RegIx) (shamt : BitVec 5)
  /-- SRAI (R138) -/
  | srai (rd rs1 : RegIx) (shamt : BitVec 5)
  /-- ADD (R150) -/
  | add (rd rs1 rs2 : RegIx)
  /-- SUB (R151) -/
  | sub (rd rs1 rs2 : RegIx)
  /-- SLL (R152) -/
  | sll (rd rs1 rs2 : RegIx)
  /-- SLT (R153) -/
  | slt (rd rs1 rs2 : RegIx)
  /-- SLTU (R154) -/
  | sltu (rd rs1 rs2 : RegIx)
  /-- XOR (R155) -/
  | xor (rd rs1 rs2 : RegIx)
  /-- SRL (R156) -/
  | srl (rd rs1 rs2 : RegIx)
  /-- SRA (R157) -/
  | sra (rd rs1 rs2 : RegIx)
  /-- OR (R158) -/
  | or (rd rs1 rs2 : RegIx)
  /-- AND (R159) -/
  | and (rd rs1 rs2 : RegIx)
  /-- BEQ (R171) -/
  | beq (rs1 rs2 : RegIx) (off : BitVec 13)
  /-- BNE (R172) -/
  | bne (rs1 rs2 : RegIx) (off : BitVec 13)
  /-- BLT (R173) -/
  | blt (rs1 rs2 : RegIx) (off : BitVec 13)
  /-- BGE (R174) -/
  | bge (rs1 rs2 : RegIx) (off : BitVec 13)
  /-- BLTU (R175) -/
  | bltu (rs1 rs2 : RegIx) (off : BitVec 13)
  /-- BGEU (R176) -/
  | bgeu (rs1 rs2 : RegIx) (off : BitVec 13)
  /-- LB (R190) -/
  | lb (rd rs1 : RegIx) (imm : BitVec 12)
  /-- LH (R191) -/
  | lh (rd rs1 : RegIx) (imm : BitVec 12)
  /-- LW (R192) -/
  | lw (rd rs1 : RegIx) (imm : BitVec 12)
  /-- LBU (R193) -/
  | lbu (rd rs1 : RegIx) (imm : BitVec 12)
  /-- LHU (R194) -/
  | lhu (rd rs1 : RegIx) (imm : BitVec 12)
  /-- SB (R195) -/
  | sb (rs1 rs2 : RegIx) (imm : BitVec 12)
  /-- SH (R196) -/
  | sh (rs1 rs2 : RegIx) (imm : BitVec 12)
  /-- SW (R197) -/
  | sw (rs1 rs2 : RegIx) (imm : BitVec 12)
  /-- FENCE (R201) -/
  | fence (rd rs1 : RegIx) (imm : BitVec 12)
  /-- FENCE.I (R201) -/
  | fenceI (rd rs1 : RegIx) (imm : BitVec 12)
  /-- ECALL (R202) -/
  | ecall
  /-- EBREAK (R203) -/
  | ebreak
  /-- CSRRW (R204) -/
  | csrrw (rd rs1 : RegIx) (csr : BitVec 12)
  /-- CSRRS (R204) -/
  | csrrs (rd rs1 : RegIx) (csr : BitVec 12)
  /-- CSRRC (R204) -/
  | csrrc (rd rs1 : RegIx) (csr : BitVec 12)
  /-- CSRRWI (R204) -/
  | csrrwi (rd : RegIx) (uimm : BitVec 5) (csr : BitVec 12)
  /-- CSRRSI (R204) -/
  | csrrsi (rd : RegIx) (uimm : BitVec 5) (csr : BitVec 12)
  /-- CSRRCI (R204) -/
  | csrrci (rd : RegIx) (uimm : BitVec 5) (csr : BitVec 12)
  /-- MRET (R205) -/
  | mret
  /-- SRET (R205) -/
  | sret
  /-- WFI (R205) -/
  | wfi
  /-- SFENCE.VMA (R205) -/
  | sfenceVma (rs1 rs2 : RegIx)
deriving DecidableEq, Repr

end Sys2Proof
end

