-- ==== Sys2Proof/WellFormed.lean ====
section
/-! DEFINITION. Which instructions an encoding exists for. The operand types bound every field but one: no instruction bit
is placed at bit 0 of a jump or branch offset, so that bit is 0 (30_encoding.md R65, R66). -/

namespace Sys2Proof

/-- The instruction has an encoding: a jump or branch offset is even (R65, R66); every other operand is free (R22). -/
def Instr.wf : Instr → Bool
  | .jal _ off => !off.getLsbD 0
  | .beq _ _ off => !off.getLsbD 0
  | .bne _ _ off => !off.getLsbD 0
  | .blt _ _ off => !off.getLsbD 0
  | .bge _ _ off => !off.getLsbD 0
  | .bltu _ _ off => !off.getLsbD 0
  | .bgeu _ _ off => !off.getLsbD 0
  | .lui _ _ | .auipc _ _ | .jalr _ _ _ => true
  | .addi _ _ _ | .slti _ _ _ | .sltiu _ _ _ | .xori _ _ _ | .ori _ _ _ | .andi _ _ _ => true
  | .slli _ _ _ | .srli _ _ _ | .srai _ _ _ => true
  | .add _ _ _ | .sub _ _ _ | .sll _ _ _ | .slt _ _ _ | .sltu _ _ _ => true
  | .xor _ _ _ | .srl _ _ _ | .sra _ _ _ | .or _ _ _ | .and _ _ _ => true
  | .lb _ _ _ | .lh _ _ _ | .lw _ _ _ | .lbu _ _ _ | .lhu _ _ _ => true
  | .sb _ _ _ | .sh _ _ _ | .sw _ _ _ => true
  | .fence _ _ _ | .fenceI _ _ _ | .ecall | .ebreak => true
  | .csrrw _ _ _ | .csrrs _ _ _ | .csrrc _ _ _ | .csrrwi _ _ _ | .csrrsi _ _ _ | .csrrci _ _ _ => true
  | .mret | .sret | .wfi | .sfenceVma _ _ => true

end Sys2Proof
end

