-- ==== Sys2Proof/Decode.lean ====
section
/-! DEFINITION. Decoder (total on every word, under either value of P_DECODE, rejecting by name), encoder, and the opcode
table as data (30_encoding.md R60 to R75). Numeric selector values are the spec's (R71, R72; log entry 2). -/

namespace Sys2Proof

/-! ## Bit fields of a word (R61, R63 to R68) -/

/-- The value `v` with its bit 0 at bit `lo` of an `n`-bit value, zeros elsewhere. -/
def place {k : Nat} (n lo : Nat) (v : BitVec k) : BitVec n := v.setWidth n <<< lo

/-- The register a 5-bit field names; every value names one (R22). -/
def regOf (b : BitVec 5) : RegIx := b.toFin

/-- The 5-bit field that names a register (R22). -/
def regBits (r : RegIx) : BitVec 5 := BitVec.ofFin r

/-- `opcode = w[6:0]` (R61). -/
def opcodeOf (w : Word) : BitVec 7 := w.extractLsb' 0 7

/-- `rd = w[11:7]` (R61). -/
def rdOf (w : Word) : RegIx := regOf (w.extractLsb' 7 5)

/-- `funct3 = w[14:12]` (R61). -/
def funct3Of (w : Word) : BitVec 3 := w.extractLsb' 12 3

/-- `rs1 = w[19:15]` (R61). -/
def rs1Of (w : Word) : RegIx := regOf (w.extractLsb' 15 5)

/-- `rs2 = w[24:20]` (R61). -/
def rs2Of (w : Word) : RegIx := regOf (w.extractLsb' 20 5)

/-- `funct7 = w[31:25]` (R61). -/
def funct7Of (w : Word) : BitVec 7 := w.extractLsb' 25 7

/-- The default immediate's field `w[31:20]` (R63); also a CSR word's CSR number. -/
def immIOf (w : Word) : BitVec 12 := w.extractLsb' 20 12

/-- The upper immediate's field `w[31:12]` (R64). -/
def immUOf (w : Word) : BitVec 20 := w.extractLsb' 12 20

/-- The shift amount `w[24:20]` (R67). -/
def shamtOf (w : Word) : BitVec 5 := w.extractLsb' 20 5

/-- A CSR immediate word's `w[19:15]`. -/
def uimmOf (w : Word) : BitVec 5 := w.extractLsb' 15 5

/-- The jump offset: bit 31 at bit 20, bits 30:21 at 10:1, bit 20 at bit 11, bits 19:12 at 19:12, bit 0 zero (R65). -/
def offJOf (w : Word) : BitVec 21 :=
  place 21 20 (w.extractLsb' 31 1) ||| place 21 12 (w.extractLsb' 12 8) |||
    place 21 11 (w.extractLsb' 20 1) ||| place 21 1 (w.extractLsb' 21 10)

/-- The branch offset: bit 31 at bit 12, bits 30:25 at 10:5, bits 11:8 at 4:1, bit 7 at bit 11, bit 0 zero (R66). -/
def offBOf (w : Word) : BitVec 13 :=
  place 13 12 (w.extractLsb' 31 1) ||| place 13 11 (w.extractLsb' 7 1) |||
    place 13 5 (w.extractLsb' 25 6) ||| place 13 1 (w.extractLsb' 8 4)

/-- The bits of a store word that RV32I reads as its offset: `w[31:25] ++ w[11:7]` (R68). No rule uses their value. -/
def immSOf (w : Word) : BitVec 12 :=
  place 12 5 (w.extractLsb' 25 7) ||| place 12 0 (w.extractLsb' 7 5)

/-! ## Decoding (R62, R71 to R75) -/

/-- Why a word names no row of the opcode table. Every such word executes as `unimplemented()` (R73). -/
inductive Reject where
  /-- An opcode outside the nine of R71 (R199), no word of R201 to R205 either. -/
  | unrecognizedOpcode
  /-- BRANCH with funct3 010 or 011 (R177). -/
  | branchFunct3
  /-- LOAD with funct3 011, 110 or 111 (R198). -/
  | loadFunct3
  /-- STORE with funct3 011 to 111 (R198). -/
  | storeFunct3
  /-- JALR with funct3 other than 000, under STRICT (R74). -/
  | jalrFunct3
  /-- OP with a funct7 that R74 does not list, under STRICT (R161). -/
  | opFunct7
  /-- OP-IMM shift with a funct7 that R74 does not list, under STRICT. -/
  | shiftFunct7
deriving DecidableEq, Repr

/-- What the decoder makes of a word. -/
inductive Decoded where
  /-- A row of the opcode table. -/
  | instr (i : Instr)
  /-- No row of it. -/
  | rejected (r : Reject)
deriving DecidableEq, Repr

/-- Which operation a secondary function code selects: `some false` the base one, `some true` the alternative (SUB, SRA,
SRAI), `none` not canonical. `alt` says whether this funct3 has an alternative. A code of R72 selects the same under both
modes, so `p` is looked at only for the other codes (R74, R75). -/
def selectAlt (p : DecodeMode) (alt : Bool) (f7 : BitVec 7) : Option Bool :=
  if f7 = 0b0000000#7 then some false
  else if alt && f7 == 0b0100000#7 then some true
  else match p with
    | .strict => none
    | .lenient => some (alt && f7.getLsbD 5)

/-- JALR: funct3 000; LENIENT ignores funct3 (R74, R75, R121). -/
def decodeJalr (p : DecodeMode) (w : Word) : Decoded :=
  if funct3Of w = 0b000#3 then .instr (.jalr (rdOf w) (rs1Of w) (immIOf w))
  else match p with
    | .strict => .rejected .jalrFunct3
    | .lenient => .instr (.jalr (rdOf w) (rs1Of w) (immIOf w))

/-- OP-IMM by funct3; the shifts also by funct7 (R72, R74, R75). -/
def decodeOpImm (p : DecodeMode) (w : Word) : Decoded :=
  let f := funct3Of w
  if f = 0b000#3 then .instr (.addi (rdOf w) (rs1Of w) (immIOf w))
  else if f = 0b010#3 then .instr (.slti (rdOf w) (rs1Of w) (immIOf w))
  else if f = 0b011#3 then .instr (.sltiu (rdOf w) (rs1Of w) (immIOf w))
  else if f = 0b100#3 then .instr (.xori (rdOf w) (rs1Of w) (immIOf w))
  else if f = 0b110#3 then .instr (.ori (rdOf w) (rs1Of w) (immIOf w))
  else if f = 0b111#3 then .instr (.andi (rdOf w) (rs1Of w) (immIOf w))
  else if f = 0b001#3 then
    match selectAlt p false (funct7Of w) with
    | none => .rejected .shiftFunct7
    | some _ => .instr (.slli (rdOf w) (rs1Of w) (shamtOf w))
  else
    match selectAlt p true (funct7Of w) with
    | none => .rejected .shiftFunct7
    | some false => .instr (.srli (rdOf w) (rs1Of w) (shamtOf w))
    | some true => .instr (.srai (rdOf w) (rs1Of w) (shamtOf w))

/-- OP by funct3 and funct7 (R72, R74, R75): only funct3 000 and 101 have an alternative. -/
def decodeOp (p : DecodeMode) (w : Word) : Decoded :=
  let f := funct3Of w
  match selectAlt p (f == 0b000#3 || f == 0b101#3) (funct7Of w) with
  | none => .rejected .opFunct7
  | some alt =>
    if f = 0b000#3 then
      if alt then .instr (.sub (rdOf w) (rs1Of w) (rs2Of w)) else .instr (.add (rdOf w) (rs1Of w) (rs2Of w))
    else if f = 0b001#3 then .instr (.sll (rdOf w) (rs1Of w) (rs2Of w))
    else if f = 0b010#3 then .instr (.slt (rdOf w) (rs1Of w) (rs2Of w))
    else if f = 0b011#3 then .instr (.sltu (rdOf w) (rs1Of w) (rs2Of w))
    else if f = 0b100#3 then .instr (.xor (rdOf w) (rs1Of w) (rs2Of w))
    else if f = 0b101#3 then
      if alt then .instr (.sra (rdOf w) (rs1Of w) (rs2Of w)) else .instr (.srl (rdOf w) (rs1Of w) (rs2Of w))
    else if f = 0b110#3 then .instr (.or (rdOf w) (rs1Of w) (rs2Of w))
    else .instr (.and (rdOf w) (rs1Of w) (rs2Of w))

/-- BRANCH by funct3 (R72); 010 and 011 select none (R177). -/
def decodeBranch (w : Word) : Decoded :=
  let f := funct3Of w
  if f = 0b000#3 then .instr (.beq (rs1Of w) (rs2Of w) (offBOf w))
  else if f = 0b001#3 then .instr (.bne (rs1Of w) (rs2Of w) (offBOf w))
  else if f = 0b100#3 then .instr (.blt (rs1Of w) (rs2Of w) (offBOf w))
  else if f = 0b101#3 then .instr (.bge (rs1Of w) (rs2Of w) (offBOf w))
  else if f = 0b110#3 then .instr (.bltu (rs1Of w) (rs2Of w) (offBOf w))
  else if f = 0b111#3 then .instr (.bgeu (rs1Of w) (rs2Of w) (offBOf w))
  else .rejected .branchFunct3

/-- LOAD by funct3 (R72); 011, 110 and 111 name no instruction (R198). -/
def decodeLoad (w : Word) : Decoded :=
  let f := funct3Of w
  if f = 0b000#3 then .instr (.lb (rdOf w) (rs1Of w) (immIOf w))
  else if f = 0b001#3 then .instr (.lh (rdOf w) (rs1Of w) (immIOf w))
  else if f = 0b010#3 then .instr (.lw (rdOf w) (rs1Of w) (immIOf w))
  else if f = 0b100#3 then .instr (.lbu (rdOf w) (rs1Of w) (immIOf w))
  else if f = 0b101#3 then .instr (.lhu (rdOf w) (rs1Of w) (immIOf w))
  else .rejected .loadFunct3

/-- STORE by funct3 (R72); 011 to 111 name no instruction (R198). -/
def decodeStore (w : Word) : Decoded :=
  let f := funct3Of w
  if f = 0b000#3 then .instr (.sb (rs1Of w) (rs2Of w) (immSOf w))
  else if f = 0b001#3 then .instr (.sh (rs1Of w) (rs2Of w) (immSOf w))
  else if f = 0b010#3 then .instr (.sw (rs1Of w) (rs2Of w) (immSOf w))
  else .rejected .storeFunct3

/-- Opcode 0001111: the words R201 names. -/
def decodeMiscMem (w : Word) : Decoded :=
  let f := funct3Of w
  if f = 0b000#3 then .instr (.fence (rdOf w) (rs1Of w) (immIOf w))
  else if f = 0b001#3 then .instr (.fenceI (rdOf w) (rs1Of w) (immIOf w))
  else .rejected .unrecognizedOpcode

/-- SYSTEM words with funct3 000: the words R202, R203 and R205 name, written out whole, and SFENCE.VMA. -/
def decodePriv (w : Word) : Decoded :=
  if w = 0x00000073#32 then .instr .ecall
  else if w = 0x00100073#32 then .instr .ebreak
  else if w = 0x30200073#32 then .instr .mret
  else if w = 0x10200073#32 then .instr .sret
  else if w = 0x10500073#32 then .instr .wfi
  else if funct7Of w = 0b0001001#7 ∧ rdOf w = 0 then .instr (.sfenceVma (rs1Of w) (rs2Of w))
  else .rejected .unrecognizedOpcode

/-- Opcode 1110011: the words R202 to R205 name. -/
def decodeSystem (w : Word) : Decoded :=
  let f := funct3Of w
  if f = 0b000#3 then decodePriv w
  else if f = 0b001#3 then .instr (.csrrw (rdOf w) (rs1Of w) (immIOf w))
  else if f = 0b010#3 then .instr (.csrrs (rdOf w) (rs1Of w) (immIOf w))
  else if f = 0b011#3 then .instr (.csrrc (rdOf w) (rs1Of w) (immIOf w))
  else if f = 0b101#3 then .instr (.csrrwi (rdOf w) (uimmOf w) (immIOf w))
  else if f = 0b110#3 then .instr (.csrrsi (rdOf w) (uimmOf w) (immIOf w))
  else if f = 0b111#3 then .instr (.csrrci (rdOf w) (uimmOf w) (immIOf w))
  else .rejected .unrecognizedOpcode

/-- The decoder: total, pure, first on the opcode, then on the function codes (R62, R71). -/
def decodeWith (p : DecodeMode) (w : Word) : Decoded :=
  let op := opcodeOf w
  if op = 0b0110111#7 then .instr (.lui (rdOf w) (immUOf w))
  else if op = 0b0010111#7 then .instr (.auipc (rdOf w) (immUOf w))
  else if op = 0b1101111#7 then .instr (.jal (rdOf w) (offJOf w))
  else if op = 0b1100111#7 then decodeJalr p w
  else if op = 0b0010011#7 then decodeOpImm p w
  else if op = 0b0110011#7 then decodeOp p w
  else if op = 0b1100011#7 then decodeBranch w
  else if op = 0b0000011#7 then decodeLoad w
  else if op = 0b0100011#7 then decodeStore w
  else if op = 0b0001111#7 then decodeMiscMem w
  else if op = 0b1110011#7 then decodeSystem w
  else .rejected .unrecognizedOpcode

/-- The decoder of the core at hand (R93). -/
def decode (w : Word) : Decoded := decodeWith Config.decodeMode w

/-- The instruction an `nbits`-bit table word decodes to: bits above `nbits` are 0, and an instruction is one whole 32-bit
word with no byte order (R43, R60). -/
def decodeTableWord (nbits w : Nat) : Option Instr :=
  match decode (BitVec.ofNat 32 (w % 2 ^ nbits)) with
  | .instr i => some i
  | .rejected _ => none

/-! ## Encoding (R70) -/

/-- R format (R70). -/
def wordR (f7 : BitVec 7) (rs2 rs1 : RegIx) (f3 : BitVec 3) (rd : RegIx) (op : BitVec 7) : Word :=
  place 32 25 f7 ||| place 32 20 (regBits rs2) ||| place 32 15 (regBits rs1) ||| place 32 12 f3 |||
    place 32 7 (regBits rd) ||| place 32 0 op

/-- I format (R70). -/
def wordI (imm : BitVec 12) (rs1 : RegIx) (f3 : BitVec 3) (rd : RegIx) (op : BitVec 7) : Word :=
  place 32 20 imm ||| place 32 15 (regBits rs1) ||| place 32 12 f3 ||| place 32 7 (regBits rd) ||| place 32 0 op

/-- I format of an immediate shift: function code above the shift amount (R67, R70). -/
def wordShift (f7 : BitVec 7) (shamt : BitVec 5) (rs1 : RegIx) (f3 : BitVec 3) (rd : RegIx) (op : BitVec 7) : Word :=
  place 32 25 f7 ||| place 32 20 shamt ||| place 32 15 (regBits rs1) ||| place 32 12 f3 ||| place 32 7 (regBits rd) |||
    place 32 0 op

/-- I format of a CSR immediate word: a 5-bit immediate where rs1 stands. -/
def wordCsrImm (csr : BitVec 12) (uimm : BitVec 5) (f3 : BitVec 3) (rd : RegIx) (op : BitVec 7) : Word :=
  place 32 20 csr ||| place 32 15 uimm ||| place 32 12 f3 ||| place 32 7 (regBits rd) ||| place 32 0 op

/-- S format (R68, R70). -/
def wordS (imm : BitVec 12) (rs2 rs1 : RegIx) (f3 : BitVec 3) (op : BitVec 7) : Word :=
  place 32 25 (imm.extractLsb' 5 7) ||| place 32 20 (regBits rs2) ||| place 32 15 (regBits rs1) ||| place 32 12 f3 |||
    place 32 7 (imm.extractLsb' 0 5) ||| place 32 0 op

/-- B format: `imm[12] ++ imm[10:5]`, rs2, rs1, funct3, `imm[4:1] ++ imm[11]` (R66, R70). -/
def wordB (off : BitVec 13) (rs2 rs1 : RegIx) (f3 : BitVec 3) (op : BitVec 7) : Word :=
  place 32 31 (off.extractLsb' 12 1) ||| place 32 25 (off.extractLsb' 5 6) ||| place 32 20 (regBits rs2) |||
    place 32 15 (regBits rs1) ||| place 32 12 f3 ||| place 32 8 (off.extractLsb' 1 4) |||
    place 32 7 (off.extractLsb' 11 1) ||| place 32 0 op

/-- U format (R64, R70). -/
def wordU (imm : BitVec 20) (rd : RegIx) (op : BitVec 7) : Word :=
  place 32 12 imm ||| place 32 7 (regBits rd) ||| place 32 0 op

/-- J format: `imm[20]`, `imm[10:1]`, `imm[11]`, `imm[19:12]` (R65, R70). -/
def wordJ (off : BitVec 21) (rd : RegIx) (op : BitVec 7) : Word :=
  place 32 31 (off.extractLsb' 20 1) ||| place 32 21 (off.extractLsb' 1 10) ||| place 32 20 (off.extractLsb' 11 1) |||
    place 32 12 (off.extractLsb' 12 8) ||| place 32 7 (regBits rd) ||| place 32 0 op

/-- The canonical word of an instruction (R70 to R72, R201 to R205). -/
def encode : Instr → Word
  | .lui rd imm => wordU imm rd 0b0110111#7
  | .auipc rd imm => wordU imm rd 0b0010111#7
  | .jal rd off => wordJ off rd 0b1101111#7
  | .jalr rd rs1 imm => wordI imm rs1 0b000#3 rd 0b1100111#7
  | .addi rd rs1 imm => wordI imm rs1 0b000#3 rd 0b0010011#7
  | .slti rd rs1 imm => wordI imm rs1 0b010#3 rd 0b0010011#7
  | .sltiu rd rs1 imm => wordI imm rs1 0b011#3 rd 0b0010011#7
  | .xori rd rs1 imm => wordI imm rs1 0b100#3 rd 0b0010011#7
  | .ori rd rs1 imm => wordI imm rs1 0b110#3 rd 0b0010011#7
  | .andi rd rs1 imm => wordI imm rs1 0b111#3 rd 0b0010011#7
  | .slli rd rs1 sh => wordShift 0b0000000#7 sh rs1 0b001#3 rd 0b0010011#7
  | .srli rd rs1 sh => wordShift 0b0000000#7 sh rs1 0b101#3 rd 0b0010011#7
  | .srai rd rs1 sh => wordShift 0b0100000#7 sh rs1 0b101#3 rd 0b0010011#7
  | .add rd rs1 rs2 => wordR 0b0000000#7 rs2 rs1 0b000#3 rd 0b0110011#7
  | .sub rd rs1 rs2 => wordR 0b0100000#7 rs2 rs1 0b000#3 rd 0b0110011#7
  | .sll rd rs1 rs2 => wordR 0b0000000#7 rs2 rs1 0b001#3 rd 0b0110011#7
  | .slt rd rs1 rs2 => wordR 0b0000000#7 rs2 rs1 0b010#3 rd 0b0110011#7
  | .sltu rd rs1 rs2 => wordR 0b0000000#7 rs2 rs1 0b011#3 rd 0b0110011#7
  | .xor rd rs1 rs2 => wordR 0b0000000#7 rs2 rs1 0b100#3 rd 0b0110011#7
  | .srl rd rs1 rs2 => wordR 0b0000000#7 rs2 rs1 0b101#3 rd 0b0110011#7
  | .sra rd rs1 rs2 => wordR 0b0100000#7 rs2 rs1 0b101#3 rd 0b0110011#7
  | .or rd rs1 rs2 => wordR 0b0000000#7 rs2 rs1 0b110#3 rd 0b0110011#7
  | .and rd rs1 rs2 => wordR 0b0000000#7 rs2 rs1 0b111#3 rd 0b0110011#7
  | .beq rs1 rs2 off => wordB off rs2 rs1 0b000#3 0b1100011#7
  | .bne rs1 rs2 off => wordB off rs2 rs1 0b001#3 0b1100011#7
  | .blt rs1 rs2 off => wordB off rs2 rs1 0b100#3 0b1100011#7
  | .bge rs1 rs2 off => wordB off rs2 rs1 0b101#3 0b1100011#7
  | .bltu rs1 rs2 off => wordB off rs2 rs1 0b110#3 0b1100011#7
  | .bgeu rs1 rs2 off => wordB off rs2 rs1 0b111#3 0b1100011#7
  | .lb rd rs1 imm => wordI imm rs1 0b000#3 rd 0b0000011#7
  | .lh rd rs1 imm => wordI imm rs1 0b001#3 rd 0b0000011#7
  | .lw rd rs1 imm => wordI imm rs1 0b010#3 rd 0b0000011#7
  | .lbu rd rs1 imm => wordI imm rs1 0b100#3 rd 0b0000011#7
  | .lhu rd rs1 imm => wordI imm rs1 0b101#3 rd 0b0000011#7
  | .sb rs1 rs2 imm => wordS imm rs2 rs1 0b000#3 0b0100011#7
  | .sh rs1 rs2 imm => wordS imm rs2 rs1 0b001#3 0b0100011#7
  | .sw rs1 rs2 imm => wordS imm rs2 rs1 0b010#3 0b0100011#7
  | .fence rd rs1 imm => wordI imm rs1 0b000#3 rd 0b0001111#7
  | .fenceI rd rs1 imm => wordI imm rs1 0b001#3 rd 0b0001111#7
  | .ecall => 0x00000073#32
  | .ebreak => 0x00100073#32
  | .csrrw rd rs1 csr => wordI csr rs1 0b001#3 rd 0b1110011#7
  | .csrrs rd rs1 csr => wordI csr rs1 0b010#3 rd 0b1110011#7
  | .csrrc rd rs1 csr => wordI csr rs1 0b011#3 rd 0b1110011#7
  | .csrrwi rd uimm csr => wordCsrImm csr uimm 0b101#3 rd 0b1110011#7
  | .csrrsi rd uimm csr => wordCsrImm csr uimm 0b110#3 rd 0b1110011#7
  | .csrrci rd uimm csr => wordCsrImm csr uimm 0b111#3 rd 0b1110011#7
  | .mret => 0x30200073#32
  | .sret => 0x10200073#32
  | .wfi => 0x10500073#32
  | .sfenceVma rs1 rs2 => wordR 0b0001001#7 rs2 rs1 0b000#3 0 0b1110011#7

/-! ## The opcode table as data (spec/opcode_table.json) -/

/-- An instruction's mnemonic, as the opcode table spells it. -/
def Instr.mnemonic : Instr → String
  | .lui _ _ => "LUI" | .auipc _ _ => "AUIPC" | .jal _ _ => "JAL" | .jalr _ _ _ => "JALR"
  | .addi _ _ _ => "ADDI" | .slti _ _ _ => "SLTI" | .sltiu _ _ _ => "SLTIU"
  | .xori _ _ _ => "XORI" | .ori _ _ _ => "ORI" | .andi _ _ _ => "ANDI"
  | .slli _ _ _ => "SLLI" | .srli _ _ _ => "SRLI" | .srai _ _ _ => "SRAI"
  | .add _ _ _ => "ADD" | .sub _ _ _ => "SUB" | .sll _ _ _ => "SLL" | .slt _ _ _ => "SLT" | .sltu _ _ _ => "SLTU"
  | .xor _ _ _ => "XOR" | .srl _ _ _ => "SRL" | .sra _ _ _ => "SRA" | .or _ _ _ => "OR" | .and _ _ _ => "AND"
  | .beq _ _ _ => "BEQ" | .bne _ _ _ => "BNE" | .blt _ _ _ => "BLT"
  | .bge _ _ _ => "BGE" | .bltu _ _ _ => "BLTU" | .bgeu _ _ _ => "BGEU"
  | .lb _ _ _ => "LB" | .lh _ _ _ => "LH" | .lw _ _ _ => "LW" | .lbu _ _ _ => "LBU" | .lhu _ _ _ => "LHU"
  | .sb _ _ _ => "SB" | .sh _ _ _ => "SH" | .sw _ _ _ => "SW"
  | .fence _ _ _ => "FENCE" | .fenceI _ _ _ => "FENCE.I" | .ecall => "ECALL" | .ebreak => "EBREAK"
  | .csrrw _ _ _ => "CSRRW" | .csrrs _ _ _ => "CSRRS" | .csrrc _ _ _ => "CSRRC"
  | .csrrwi _ _ _ => "CSRRWI" | .csrrsi _ _ _ => "CSRRSI" | .csrrci _ _ _ => "CSRRCI"
  | .mret => "MRET" | .sret => "SRET" | .wfi => "WFI" | .sfenceVma _ _ => "SFENCE.VMA"

/-- One row of the opcode table: a word is the row's when `w &&& mask = bits`, under STRICT; the lenient pair says the same
under LENIENT, and equals the strict one where the table gives no other. -/
structure OpcodeRow where
  mnemonic : String
  bits : Word
  mask : Word
  lenientBits : Word
  lenientMask : Word
deriving DecidableEq, Repr

/-- A row that is the same under both values of P_DECODE. -/
def OpcodeRow.both (mnemonic : String) (bits mask : Word) : OpcodeRow := ⟨mnemonic, bits, mask, bits, mask⟩

/-- Does the word match the row, under P_DECODE = `p`? -/
def OpcodeRow.matchesWord (r : OpcodeRow) (p : DecodeMode) (w : Word) : Bool :=
  match p with
  | .strict => w &&& r.mask == r.bits
  | .lenient => w &&& r.lenientMask == r.lenientBits

/-- Upper immediates and jumps. -/
def rowsUpperJump : List OpcodeRow :=
  [ .both "LUI" 0x00000037 0x0000007F, .both "AUIPC" 0x00000017 0x0000007F, .both "JAL" 0x0000006F 0x0000007F,
    ⟨"JALR", 0x00000067, 0x0000707F, 0x00000067, 0x0000007F⟩ ]

/-- OP-IMM. -/
def rowsOpImm : List OpcodeRow :=
  [ .both "ADDI" 0x00000013 0x0000707F, .both "SLTI" 0x00002013 0x0000707F, .both "SLTIU" 0x00003013 0x0000707F,
    .both "XORI" 0x00004013 0x0000707F, .both "ORI" 0x00006013 0x0000707F, .both "ANDI" 0x00007013 0x0000707F,
    ⟨"SLLI", 0x00001013, 0xFE00707F, 0x00001013, 0x0000707F⟩,
    ⟨"SRLI", 0x00005013, 0xFE00707F, 0x00005013, 0x4000707F⟩,
    ⟨"SRAI", 0x40005013, 0xFE00707F, 0x40005013, 0x4000707F⟩ ]

/-- OP. -/
def rowsOp : List OpcodeRow :=
  [ ⟨"ADD", 0x00000033, 0xFE00707F, 0x00000033, 0x4000707F⟩,
    ⟨"SUB", 0x40000033, 0xFE00707F, 0x40000033, 0x4000707F⟩,
    ⟨"SLL", 0x00001033, 0xFE00707F, 0x00001033, 0x0000707F⟩,
    ⟨"SLT", 0x00002033, 0xFE00707F, 0x00002033, 0x0000707F⟩,
    ⟨"SLTU", 0x00003033, 0xFE00707F, 0x00003033, 0x0000707F⟩,
    ⟨"XOR", 0x00004033, 0xFE00707F, 0x00004033, 0x0000707F⟩,
    ⟨"SRL", 0x00005033, 0xFE00707F, 0x00005033, 0x4000707F⟩,
    ⟨"SRA", 0x40005033, 0xFE00707F, 0x40005033, 0x4000707F⟩,
    ⟨"OR", 0x00006033, 0xFE00707F, 0x00006033, 0x0000707F⟩,
    ⟨"AND", 0x00007033, 0xFE00707F, 0x00007033, 0x0000707F⟩ ]

/-- BRANCH. -/
def rowsBranch : List OpcodeRow :=
  [ .both "BEQ" 0x00000063 0x0000707F, .both "BNE" 0x00001063 0x0000707F, .both "BLT" 0x00004063 0x0000707F,
    .both "BGE" 0x00005063 0x0000707F, .both "BLTU" 0x00006063 0x0000707F, .both "BGEU" 0x00007063 0x0000707F ]

/-- LOAD and STORE. -/
def rowsLoadStore : List OpcodeRow :=
  [ .both "LB" 0x00000003 0x0000707F, .both "LH" 0x00001003 0x0000707F, .both "LW" 0x00002003 0x0000707F,
    .both "LBU" 0x00004003 0x0000707F, .both "LHU" 0x00005003 0x0000707F, .both "SB" 0x00000023 0x0000707F,
    .both "SH" 0x00001023 0x0000707F, .both "SW" 0x00002023 0x0000707F ]

/-- The named unrecognized words (R201 to R205). -/
def rowsSystem : List OpcodeRow :=
  [ .both "FENCE" 0x0000000F 0x0000707F, .both "FENCE.I" 0x0000100F 0x0000707F,
    .both "ECALL" 0x00000073 0xFFFFFFFF, .both "EBREAK" 0x00100073 0xFFFFFFFF,
    .both "CSRRW" 0x00001073 0x0000707F, .both "CSRRS" 0x00002073 0x0000707F, .both "CSRRC" 0x00003073 0x0000707F,
    .both "CSRRWI" 0x00005073 0x0000707F, .both "CSRRSI" 0x00006073 0x0000707F, .both "CSRRCI" 0x00007073 0x0000707F,
    .both "MRET" 0x30200073 0xFFFFFFFF, .both "SRET" 0x10200073 0xFFFFFFFF, .both "WFI" 0x10500073 0xFFFFFFFF,
    .both "SFENCE.VMA" 0x12000073 0xFE007FFF ]

/-- The 51 rows of spec/opcode_table.json. -/
def opcodeRows : List OpcodeRow :=
  rowsUpperJump ++ rowsOpImm ++ rowsOp ++ rowsBranch ++ rowsLoadStore ++ rowsSystem

end Sys2Proof
end

