-- ==== Sys2Proof/Machine/Ops.lean ====
section
/-! DEFINITION. The named operations over registers, program counter and Program Store. The core takes no exception and
returns from none (60_exceptions.md R220, R224, R225), so there is no such operation; where RV32I would trap, the shared
operation is `unimplemented` (R221). -/

namespace Sys2Proof.Machine

/-! ## Registers -/

/-- `x[i]`: every read of `x[0]` gives 0 (R23). -/
def State.readReg (s : State) (r : RegIx) : Word := if r = 0 then 0 else s.regs[r.val]

/-- `x[i] <- v`, before x0 is forced back to zero (R96). -/
def State.putReg (s : State) (r : RegIx) (v : Word) : State := { s with regs := s.regs.set r.val v }

/-- "After every instruction, register index 0 is forced back to zero" (R96). -/
def State.zeroX0 (s : State) : State := { s with regs := s.regs.set 0 0 }

/-! ## Program counter -/

/-- `pc <- t` (R97). -/
def State.setPc (s : State) (t : Word) : State := { s with pc := t }

/-- The fetch advance: `pc <- idx + 1`, modulo 2^32 (R92). -/
def State.advance (s : State) : State := s.setPc (s.pc + 1)

/-- Running: `pc < C`, unsigned (R90). -/
def State.running (s : State) : Bool := decide (s.pc.toNat < s.capacity)

/-! ## Program Store -/

/-- `Store[i]`: 0 where nothing is listed (R37, R51). -/
def Memory.read : Memory → Nat → Word
  | [], _ => 0
  | (a, w) :: m, i => if i = a then w else Memory.read m i

/-- `Store[i] <- v`, keeping the canonical form. -/
def Memory.write : Memory → Nat → Word → Memory
  | [], i, v => if v = 0 then [] else [(i, v)]
  | (a, w) :: m, i, v =>
    if i < a then (if v = 0 then (a, w) :: m else (i, v) :: (a, w) :: m)
    else if i = a then (if v = 0 then m else (i, v) :: m)
    else (a, w) :: Memory.write m i v

/-- Indices strictly rising from `lo` up, and no zero word listed. -/
def Memory.wfFrom : Nat → Memory → Bool
  | _, [] => true
  | lo, (a, w) :: m => decide (lo ≤ a) && (w != 0) && Memory.wfFrom (a + 1) m

/-- The canonical form. -/
def Memory.wf (m : Memory) : Bool := Memory.wfFrom 0 m

/-- Every listed index lies in `[0, c)` (R40, R49). -/
def Memory.below (c : Nat) : Memory → Bool
  | [] => true
  | (a, _) :: m => decide (a < c) && Memory.below c m

/-- Copy words into consecutive indices from `i` on (R242). -/
def Memory.writeFrom : Memory → Nat → List Word → Memory
  | m, _, [] => m
  | m, i, w :: ws => Memory.writeFrom (Memory.write m i w) (i + 1) ws

/-- Fetch: the word `Store[pc]`, when Running; no fetch otherwise (R90, R91, R103). -/
def State.fetch (s : State) : Option Word := if s.running then some (Memory.read s.store s.pc.toNat) else none

/-! ## Write-back -/

/-- What an instruction's rule computes: at most one register result and at most one new pc (R95). -/
structure Effect where
  /-- The register result, if any: destination and value. -/
  reg : Option (RegIx × Word) := none
  /-- The new pc, if any; without one pc stays pc' (R97). -/
  pc : Option Word := none
deriving DecidableEq, Repr

/-- The register result is written, the new pc is set, then x0 is forced to zero (R96, R97, R99). -/
def State.commit (e : Effect) (s : State) : State :=
  let s1 := match e.reg with
    | none => s
    | some (rd, v) => s.putReg rd v
  let s2 := match e.pc with
    | none => s1
    | some t => s1.setPc t
  s2.zeroX0

/-- The outcome every instruction ends in: the step is completed (R104, R220: none faults). -/
def complete (e : Effect) (s : State) : Host.Outcome State Fault Refusal := .next (s.commit e)

/-- `x[rd] <- v`, pc stays pc'. -/
def writeResult (rd : RegIx) (v : Word) (s : State) : Host.Outcome State Fault Refusal :=
  complete { reg := some (rd, v) } s

/-- `x[rd] <- link`, `pc <- target` (R120, R121). -/
def jumpAndLink (rd : RegIx) (link target : Word) (s : State) : Host.Outcome State Fault Refusal :=
  complete { reg := some (rd, link), pc := some target } s

/-- If the condition holds `pc <- target`, else pc stays pc' (R170). -/
def branchIf (cond : Bool) (target : Word) (s : State) : Host.Outcome State Fault Refusal :=
  complete { pc := if cond then some target else none } s

/-- `unimplemented()`: no register, no store word, pc stays pc' (00_scope.md section 4; R73). -/
def unimplemented (s : State) : Host.Outcome State Fault Refusal := complete {} s

end Sys2Proof.Machine
end

