-- ==== Sys2Proof/Machine/AluImm.lean ====
section
/-! DEFINITION. Register-immediate ALU group (43_alu_immediate.md); pc stays pc'. -/

namespace Sys2Proof.Machine

/-- `x[rd] <- a + immI`, modulo 2^32 (R130). -/
def execAddi (rd rs1 : RegIx) (imm : BitVec 12) (s : State) : Host.Outcome State Fault Refusal :=
  writeResult rd (s.readReg rs1 + immI imm) s

/-- `x[rd] <- bool(signed(a) < signed(immI))` (R131). -/
def execSlti (rd rs1 : RegIx) (imm : BitVec 12) (s : State) : Host.Outcome State Fault Refusal :=
  writeResult rd (boolWord (signedLess (s.readReg rs1) (immI imm))) s

/-- `x[rd] <- bool(unsigned(a) < unsigned(immI))`, the immediate sign-extended first (R132). -/
def execSltiu (rd rs1 : RegIx) (imm : BitVec 12) (s : State) : Host.Outcome State Fault Refusal :=
  writeResult rd (boolWord (unsignedLess (s.readReg rs1) (immI imm))) s

/-- `x[rd] <- a ^ immI` (R133). -/
def execXori (rd rs1 : RegIx) (imm : BitVec 12) (s : State) : Host.Outcome State Fault Refusal :=
  writeResult rd (s.readReg rs1 ^^^ immI imm) s

/-- `x[rd] <- a | immI` (R134). -/
def execOri (rd rs1 : RegIx) (imm : BitVec 12) (s : State) : Host.Outcome State Fault Refusal :=
  writeResult rd (s.readReg rs1 ||| immI imm) s

/-- `x[rd] <- a & immI` (R135). -/
def execAndi (rd rs1 : RegIx) (imm : BitVec 12) (s : State) : Host.Outcome State Fault Refusal :=
  writeResult rd (s.readReg rs1 &&& immI imm) s

/-- `x[rd] <- a << shamt` (R136). -/
def execSlli (rd rs1 : RegIx) (shamt : BitVec 5) (s : State) : Host.Outcome State Fault Refusal :=
  writeResult rd (s.readReg rs1 <<< shamt.toNat) s

/-- `x[rd] <- a >>u shamt` (R137). -/
def execSrli (rd rs1 : RegIx) (shamt : BitVec 5) (s : State) : Host.Outcome State Fault Refusal :=
  writeResult rd (s.readReg rs1 >>> shamt.toNat) s

/-- `x[rd] <- a >>s shamt` (R138). -/
def execSrai (rd rs1 : RegIx) (shamt : BitVec 5) (s : State) : Host.Outcome State Fault Refusal :=
  writeResult rd ((s.readReg rs1).sshiftRight shamt.toNat) s

end Sys2Proof.Machine
end

