-- ==== Sys2Proof/Machine/AluReg.lean ====
section
/-! DEFINITION. Register-register ALU group (44_alu_register.md); pc stays pc'. -/

namespace Sys2Proof.Machine

/-- `x[rd] <- a + b`, modulo 2^32 (R150). -/
def execAdd (rd rs1 rs2 : RegIx) (s : State) : Host.Outcome State Fault Refusal :=
  writeResult rd (s.readReg rs1 + s.readReg rs2) s

/-- `x[rd] <- a - b`, modulo 2^32 (R151). -/
def execSub (rd rs1 rs2 : RegIx) (s : State) : Host.Outcome State Fault Refusal :=
  writeResult rd (s.readReg rs1 - s.readReg rs2) s

/-- `x[rd] <- a << (b & 31)` (R152, R160). -/
def execSll (rd rs1 rs2 : RegIx) (s : State) : Host.Outcome State Fault Refusal :=
  writeResult rd (s.readReg rs1 <<< shiftAmount (s.readReg rs2)) s

/-- `x[rd] <- bool(signed(a) < signed(b))` (R153). -/
def execSlt (rd rs1 rs2 : RegIx) (s : State) : Host.Outcome State Fault Refusal :=
  writeResult rd (boolWord (signedLess (s.readReg rs1) (s.readReg rs2))) s

/-- `x[rd] <- bool(unsigned(a) < unsigned(b))` (R154). -/
def execSltu (rd rs1 rs2 : RegIx) (s : State) : Host.Outcome State Fault Refusal :=
  writeResult rd (boolWord (unsignedLess (s.readReg rs1) (s.readReg rs2))) s

/-- `x[rd] <- a ^ b` (R155). -/
def execXor (rd rs1 rs2 : RegIx) (s : State) : Host.Outcome State Fault Refusal :=
  writeResult rd (s.readReg rs1 ^^^ s.readReg rs2) s

/-- `x[rd] <- a >>u (b & 31)` (R156, R160). -/
def execSrl (rd rs1 rs2 : RegIx) (s : State) : Host.Outcome State Fault Refusal :=
  writeResult rd (s.readReg rs1 >>> shiftAmount (s.readReg rs2)) s

/-- `x[rd] <- a >>s (b & 31)` (R157, R160). -/
def execSra (rd rs1 rs2 : RegIx) (s : State) : Host.Outcome State Fault Refusal :=
  writeResult rd ((s.readReg rs1).sshiftRight (shiftAmount (s.readReg rs2))) s

/-- `x[rd] <- a | b` (R158). -/
def execOr (rd rs1 rs2 : RegIx) (s : State) : Host.Outcome State Fault Refusal :=
  writeResult rd (s.readReg rs1 ||| s.readReg rs2) s

/-- `x[rd] <- a & b` (R159). -/
def execAnd (rd rs1 rs2 : RegIx) (s : State) : Host.Outcome State Fault Refusal :=
  writeResult rd (s.readReg rs1 &&& s.readReg rs2) s

end Sys2Proof.Machine
end

