-- ==== Sys2Proof/Machine/Branches.lean ====
section
/-! DEFINITION. Conditional branches (45_branches.md); no register is written. -/

namespace Sys2Proof.Machine

/-- Taken when `a = b` (R170, R171). -/
def execBeq (rs1 rs2 : RegIx) (off : BitVec 13) (s : State) : Host.Outcome State Fault Refusal :=
  branchIf (s.readReg rs1 == s.readReg rs2) (branchTarget s.pc off) s

/-- Taken when `a != b` (R170, R172). -/
def execBne (rs1 rs2 : RegIx) (off : BitVec 13) (s : State) : Host.Outcome State Fault Refusal :=
  branchIf (s.readReg rs1 != s.readReg rs2) (branchTarget s.pc off) s

/-- Taken when `signed(a) < signed(b)` (R170, R173). -/
def execBlt (rs1 rs2 : RegIx) (off : BitVec 13) (s : State) : Host.Outcome State Fault Refusal :=
  branchIf (signedLess (s.readReg rs1) (s.readReg rs2)) (branchTarget s.pc off) s

/-- Taken when `signed(a) >= signed(b)` (R170, R174). -/
def execBge (rs1 rs2 : RegIx) (off : BitVec 13) (s : State) : Host.Outcome State Fault Refusal :=
  branchIf (!signedLess (s.readReg rs1) (s.readReg rs2)) (branchTarget s.pc off) s

/-- Taken when `unsigned(a) < unsigned(b)` (R170, R175). -/
def execBltu (rs1 rs2 : RegIx) (off : BitVec 13) (s : State) : Host.Outcome State Fault Refusal :=
  branchIf (unsignedLess (s.readReg rs1) (s.readReg rs2)) (branchTarget s.pc off) s

/-- Taken when `unsigned(a) >= unsigned(b)` (R170, R176). -/
def execBgeu (rs1 rs2 : RegIx) (off : BitVec 13) (s : State) : Host.Outcome State Fault Refusal :=
  branchIf (!unsignedLess (s.readReg rs1) (s.readReg rs2)) (branchTarget s.pc off) s

end Sys2Proof.Machine
end

