-- ==== Sys2Proof/Machine/Jumps.lean ====
section
/-! DEFINITION. JAL and JALR (42_jumps.md). -/

namespace Sys2Proof.Machine

/-- `x[rd] <- pc' * 4`, `pc <- (pc' - 1) + floor4(immJ)` (R120). -/
def execJal (rd : RegIx) (off : BitVec 21) (s : State) : Host.Outcome State Fault Refusal :=
  jumpAndLink rd (link s.pc) (jalTarget s.pc off) s

/-- `x[rd] <- pc' * 4`, `pc <- ((a + immI) & ~1) >>u 2`, `a` the old `x[rs1]` (R94, R121; log entry 10). -/
def execJalr (rd rs1 : RegIx) (imm : BitVec 12) (s : State) : Host.Outcome State Fault Refusal :=
  jumpAndLink rd (link s.pc) (jalrTarget (s.readReg rs1) imm) s

end Sys2Proof.Machine
end

