-- ==== Sys2Proof/Machine/Unimplemented.lean ====
section
/-! DEFINITION. Loads, stores and the named unrecognized words (46_unimplemented.md): each has the one effect the spec gives
it, `unimplemented()`, and the step's status is Unimplemented (R98; Machine/Report.lean). -/

namespace Sys2Proof.Machine

/-- `unimplemented()`: `x[rd]` keeps its value and no memory is read (R190). -/
def execLb (_rd _rs1 : RegIx) (_imm : BitVec 12) (s : State) : Host.Outcome State Fault Refusal := unimplemented s

/-- `unimplemented()`: `x[rd]` keeps its value and no memory is read (R191). -/
def execLh (_rd _rs1 : RegIx) (_imm : BitVec 12) (s : State) : Host.Outcome State Fault Refusal := unimplemented s

/-- `unimplemented()`: `x[rd]` keeps its value and no memory is read (R192). -/
def execLw (_rd _rs1 : RegIx) (_imm : BitVec 12) (s : State) : Host.Outcome State Fault Refusal := unimplemented s

/-- `unimplemented()`: `x[rd]` keeps its value and no memory is read (R193). -/
def execLbu (_rd _rs1 : RegIx) (_imm : BitVec 12) (s : State) : Host.Outcome State Fault Refusal := unimplemented s

/-- `unimplemented()`: `x[rd]` keeps its value and no memory is read (R194). -/
def execLhu (_rd _rs1 : RegIx) (_imm : BitVec 12) (s : State) : Host.Outcome State Fault Refusal := unimplemented s

/-- `unimplemented()`: no memory is written (R195). -/
def execSb (_rs1 _rs2 : RegIx) (_imm : BitVec 12) (s : State) : Host.Outcome State Fault Refusal := unimplemented s

/-- `unimplemented()`: no memory is written (R196). -/
def execSh (_rs1 _rs2 : RegIx) (_imm : BitVec 12) (s : State) : Host.Outcome State Fault Refusal := unimplemented s

/-- `unimplemented()`: no memory is written (R197). -/
def execSw (_rs1 _rs2 : RegIx) (_imm : BitVec 12) (s : State) : Host.Outcome State Fault Refusal := unimplemented s

/-- `unimplemented()`: orders nothing (R201). -/
def execFence (_rd _rs1 : RegIx) (_imm : BitVec 12) (s : State) : Host.Outcome State Fault Refusal := unimplemented s

/-- `unimplemented()`: orders nothing (R201). -/
def execFenceI (_rd _rs1 : RegIx) (_imm : BitVec 12) (s : State) : Host.Outcome State Fault Refusal := unimplemented s

/-- `unimplemented()`: no environment call, execution goes on at pc' (R202). -/
def execEcall (s : State) : Host.Outcome State Fault Refusal := unimplemented s

/-- `unimplemented()`: no breakpoint, the run goes on (R203). -/
def execEbreak (s : State) : Host.Outcome State Fault Refusal := unimplemented s

/-- `unimplemented()`: reads and writes nothing, `rd` keeps its value (R204). -/
def execCsrrw (_rd _rs1 : RegIx) (_csr : BitVec 12) (s : State) : Host.Outcome State Fault Refusal := unimplemented s

/-- `unimplemented()`: reads and writes nothing, `rd` keeps its value (R204). -/
def execCsrrs (_rd _rs1 : RegIx) (_csr : BitVec 12) (s : State) : Host.Outcome State Fault Refusal := unimplemented s

/-- `unimplemented()`: reads and writes nothing, `rd` keeps its value (R204). -/
def execCsrrc (_rd _rs1 : RegIx) (_csr : BitVec 12) (s : State) : Host.Outcome State Fault Refusal := unimplemented s

/-- `unimplemented()`: reads and writes nothing, `rd` keeps its value (R204). -/
def execCsrrwi (_rd : RegIx) (_uimm : BitVec 5) (_csr : BitVec 12) (s : State) : Host.Outcome State Fault Refusal := unimplemented s

/-- `unimplemented()`: reads and writes nothing, `rd` keeps its value (R204). -/
def execCsrrsi (_rd : RegIx) (_uimm : BitVec 5) (_csr : BitVec 12) (s : State) : Host.Outcome State Fault Refusal := unimplemented s

/-- `unimplemented()`: reads and writes nothing, `rd` keeps its value (R204). -/
def execCsrrci (_rd : RegIx) (_uimm : BitVec 5) (_csr : BitVec 12) (s : State) : Host.Outcome State Fault Refusal := unimplemented s

/-- `unimplemented()`: returns from nothing (R205). -/
def execMret (s : State) : Host.Outcome State Fault Refusal := unimplemented s

/-- `unimplemented()`: returns from nothing (R205). -/
def execSret (s : State) : Host.Outcome State Fault Refusal := unimplemented s

/-- `unimplemented()`: does not wait, execution goes on at pc' (R205). -/
def execWfi (s : State) : Host.Outcome State Fault Refusal := unimplemented s

/-- `unimplemented()`: an unrecognized word (R205). -/
def execSfenceVma (_rs1 _rs2 : RegIx) (s : State) : Host.Outcome State Fault Refusal := unimplemented s

/-- A word that is no row of the opcode table, whatever the reason, is `unimplemented()` too (R73, R161, R177, R198, R199,
R200). -/
def execRejected (_r : Reject) (s : State) : Host.Outcome State Fault Refusal := unimplemented s

end Sys2Proof.Machine
end

