-- ==== Sys2Proof/Machine/Upper.lean ====
section
/-! DEFINITION. LUI and AUIPC (41_upper_immediate.md). In every meaning of this folder `s.pc` is pc' = idx + 1 (R92). -/

namespace Sys2Proof.Machine

/-- `x[rd] <- immU` (R110). -/
def execLui (rd : RegIx) (imm : BitVec 20) (s : State) : Host.Outcome State Fault Refusal :=
  writeResult rd (immU imm) s

/-- `x[rd] <- pc' + immU`: the advanced word index, not a byte address (R111; log entry 11). -/
def execAuipc (rd : RegIx) (imm : BitVec 20) (s : State) : Host.Outcome State Fault Refusal :=
  writeResult rd (s.pc + immU imm) s

end Sys2Proof.Machine
end

