-- ==== Sys2Proof/Machine/Step.lean ====
section
/-! DEFINITION. One step (40_fetch_and_sequencing.md R99), and the placing of a word where the next step fetches. -/

namespace Sys2Proof.Machine

/-- The step under P_DECODE = `p`: fetch `Store[pc]` (R91), advance (R92), decode (R93), execute and write back (R94 to R97).
Halted has no step (R90, R102). A word that is no row of the opcode table executes as `unimplemented()` (R73). -/
def stepWith (p : DecodeMode) (s : State) : Host.Outcome State Fault Refusal :=
  match s.fetch with
  | none => .fault .halted
  | some w =>
    match decodeWith p w with
    | .instr i => exec i s.advance
    | .rejected r => execRejected r s.advance

/-- One step of the core at hand. -/
def step (s : State) : Host.Outcome State Fault Refusal := stepWith Config.decodeMode s

/-- The state with the word (bits above `nbits` zero) stored where `step` fetches next, `Store[pc]`. A Halted state has no
such place (R90), so there pc is first put back to 0 and an empty store given the default capacity (log entry 13). -/
def State.withFetchWord (s : State) (nbits w : Nat) : State :=
  let v : Word := BitVec.ofNat 32 (w % 2 ^ nbits)
  if s.running then { s with store := Memory.write s.store s.pc.toNat v }
  else
    { s with
      pc := 0
      capacity := if s.capacity = 0 then Config.defaultCapacity else s.capacity
      store := Memory.write s.store 0 v }

end Sys2Proof.Machine
end

