-- ==== Sys2Proof/Machine/Report.lean ====
section
/-! DEFINITION. The status report of a step (40_fetch_and_sequencing.md R98): an output of the step, not state (10_state.md
R33), so it is a function of the state the step starts in (log entry 6). -/

namespace Sys2Proof.Machine

/-- "exactly one status" (R98). -/
inductive Status where
  | executed
  | unimplemented
deriving DecidableEq, Repr

/-- What a step reports: `idx`, `w` and the status (R98). -/
structure Report where
  idx : Word
  w : Word
  status : Status
deriving DecidableEq, Repr

/-- The status of a step that runs the instruction (R98): a function of the word alone (R223). -/
def statusOfInstr : Instr → Status
  | .lui _ _ => .executed
  | .auipc _ _ => .executed
  | .jal _ _ => .executed
  | .jalr _ _ _ => .executed
  | .addi _ _ _ => .executed
  | .slti _ _ _ => .executed
  | .sltiu _ _ _ => .executed
  | .xori _ _ _ => .executed
  | .ori _ _ _ => .executed
  | .andi _ _ _ => .executed
  | .slli _ _ _ => .executed
  | .srli _ _ _ => .executed
  | .srai _ _ _ => .executed
  | .add _ _ _ => .executed
  | .sub _ _ _ => .executed
  | .sll _ _ _ => .executed
  | .slt _ _ _ => .executed
  | .sltu _ _ _ => .executed
  | .xor _ _ _ => .executed
  | .srl _ _ _ => .executed
  | .sra _ _ _ => .executed
  | .or _ _ _ => .executed
  | .and _ _ _ => .executed
  | .beq _ _ _ => .executed
  | .bne _ _ _ => .executed
  | .blt _ _ _ => .executed
  | .bge _ _ _ => .executed
  | .bltu _ _ _ => .executed
  | .bgeu _ _ _ => .executed
  | .lb _ _ _ => .unimplemented
  | .lh _ _ _ => .unimplemented
  | .lw _ _ _ => .unimplemented
  | .lbu _ _ _ => .unimplemented
  | .lhu _ _ _ => .unimplemented
  | .sb _ _ _ => .unimplemented
  | .sh _ _ _ => .unimplemented
  | .sw _ _ _ => .unimplemented
  | .fence _ _ _ => .unimplemented
  | .fenceI _ _ _ => .unimplemented
  | .ecall => .unimplemented
  | .ebreak => .unimplemented
  | .csrrw _ _ _ => .unimplemented
  | .csrrs _ _ _ => .unimplemented
  | .csrrc _ _ _ => .unimplemented
  | .csrrwi _ _ _ => .unimplemented
  | .csrrsi _ _ _ => .unimplemented
  | .csrrci _ _ _ => .unimplemented
  | .mret => .unimplemented
  | .sret => .unimplemented
  | .wfi => .unimplemented
  | .sfenceVma _ _ => .unimplemented

/-- The status of a step on a decoded word: a rejected word is `unimplemented()` (R73, R98). -/
def statusOfDecoded : Decoded → Status
  | .instr i => statusOfInstr i
  | .rejected _ => .unimplemented

/-- The report of the step taken in this state, under P_DECODE = `p`; none when Halted, since no step is taken (R90, R98). -/
def State.reportWith (p : DecodeMode) (s : State) : Option Report :=
  match s.fetch with
  | none => none
  | some w => some { idx := s.pc, w := w, status := statusOfDecoded (decodeWith p w) }

/-- The report of the step the core at hand takes in this state (R98). -/
def State.report (s : State) : Option Report := s.reportWith Config.decodeMode

end Sys2Proof.Machine
end

