-- ==== Sys2Proof/Machine/HostOps.lean ====
section
/-! DEFINITION. The host interface (70_reset_and_hazards.md): RESET, LOAD, RUN; READREG is `State.readReg` (R244). Then the core
with its host: which move is possible when (R90, R245, R246). -/

namespace Sys2Proof.Machine

/-- RESET(c) (R240); a capacity above 2^30 is refused (R8; 92_eei_decisions.md D3). No earlier state survives it. -/
def State.resetTo (c : Nat) : Option State := if c ≤ Config.maxCapacity then some (State.construct c) else none

/-- What LOAD returns (R242). -/
inductive LoadResult where
  | ok
  | programTooLarge
deriving DecidableEq, Repr

/-- LOAD(words): longer than C, nothing is written; else `Store[0..n-1]` is, and nothing else (R242). -/
def State.load (words : List Word) (s : State) : LoadResult × State :=
  if s.capacity < words.length then (.programTooLarge, s)
  else (.ok, { s with store := Memory.writeFrom s.store 0 words })

/-- How far a fuel-bounded RUN came, with the reports of the steps it took, oldest first. -/
inductive RunResult where
  /-- RUN returned: the core is Halted (R106). -/
  | halted (s : State) (reports : List Report)
  /-- The fuel ran out with the core still Running. This is not a halt (R105; 92_eei_decisions.md D20). -/
  | outOfFuel (s : State) (reports : List Report)
  /-- A step of a Running core answered no next state. It does not occur (R103, R220). -/
  | noStep (s : State) (reports : List Report)
deriving DecidableEq, Repr

/-- RUN with at most `fuel` steps: test Running, step, test again (R100); pc and registers are not reset (R243). -/
def State.runFor : Nat → State → RunResult
  | fuel, s =>
    if s.running then
      match fuel with
      | 0 => .outOfFuel s []
      | n + 1 =>
        match step s with
        | .next t =>
          let here := s.report.toList
          match State.runFor n t with
          | .halted u rs => .halted u (here ++ rs)
          | .outOfFuel u rs => .outOfFuel u (here ++ rs)
          | .noStep u rs => .noStep u (here ++ rs)
        | .fault _ => .noStep s []
        | .refused _ => .noStep s []
    else .halted s []

/-! ## The core with its host: what may happen when -/

/-- The core as its host has it. Whether a RUN is in progress is none of the core's four pieces of state (R20), yet R90 and R245
ask it; so it stands beside the state (log entry 5). -/
structure Session where
  core : State
  /-- A RUN is in progress: it has started and not returned (R90, R245). -/
  inRun : Bool
deriving DecidableEq, Repr

/-- The moves of core and host together: the rows of R246, with RUN as its start, its steps and its return. -/
inductive HostMove where
  /-- The host sends RESET(c). -/
  | reset (c : Nat)
  /-- The host sends LOAD(words). -/
  | load (words : List Word)
  /-- The host sends READREG(r). -/
  | readReg (r : RegIx)
  /-- The host sends RUN. -/
  | startRun
  /-- The core takes one step of the RUN. -/
  | step
  /-- The RUN returns to the host. -/
  | returnRun
deriving DecidableEq, Repr

/-- What the host gets from a move: R246's column "core returns". -/
inductive Answer where
  | nothing
  | loaded (r : LoadResult)
  | value (v : Word)
  | report (r : Report)
deriving DecidableEq, Repr

/-- The move, with its answer; `none` where there is no such move. During a RUN the host has no access to the core: the only
move is a step, or the return once Halted (R100, R245, R246; 92_eei_decisions.md D8; 93_implementation_defined.md item 11).
Between RUNs the host's operations are possible and no step is (R90). -/
def Session.move (m : HostMove) (x : Session) : Option (Answer × Session) :=
  if x.inRun then
    match m with
    | .step =>
      match Sys2Proof.Machine.step x.core with
      | .next t => x.core.report.map fun r => (.report r, { core := t, inRun := true })
      | .fault _ => none
      | .refused _ => none
    | .returnRun => if x.core.running then none else some (.nothing, { x with inRun := false })
    | .reset _ | .load _ | .readReg _ | .startRun => none
  else
    match m with
    | .reset c => (State.resetTo c).map fun s => (.nothing, { core := s, inRun := false })
    | .load words => some (.loaded (x.core.load words).1, { x with core := (x.core.load words).2 })
    | .readReg r => some (.value (x.core.readReg r), x)
    | .startRun => some (.nothing, { x with inRun := true })
    | .step | .returnRun => none

/-- Several moves in a row, with their answers. -/
def Session.moves : List HostMove → Session → Option (List Answer × Session)
  | [], x => some ([], x)
  | m :: ms, x =>
    match x.move m with
    | none => none
    | some (a, y) => (Session.moves ms y).map fun e => (a :: e.1, e.2)

end Sys2Proof.Machine
end

