-- ==== Sys2Proof/Safety.lean ====
section
/-! DEFINITION. What a safe run is (the invariant of the core's state, the states it can reach, a run that ends), and the
terms the claims are stated in. -/

namespace Sys2Proof.Machine

/-- What every state the core can be in satisfies: the store canonical (R37) and inside `[0, C)` (R40, R49), x0 zero (R23),
`C <= 2^30` (R8). -/
abbrev State.Inv (s : State) : Prop :=
  Memory.wf s.store = true ∧ Memory.below s.capacity s.store = true ∧ s.regs[0] = 0 ∧ s.capacity ≤ Config.maxCapacity

/-- The sessions that begin with a RESET and go on by the moves of core and host (R246, R247): LOAD, RESET and READREG come
only between RUNs (R245), steps only inside one (R90). -/
inductive Reachable : Session → Prop where
  /-- RESET(c) makes the core (R240). -/
  | reset {c : Nat} {s : State} (h : State.resetTo c = some s) : Reachable { core := s, inRun := false }
  /-- One more move. -/
  | move {x y : Session} {m : HostMove} {a : Answer} (h : Reachable x) (hm : x.move m = some (a, y)) : Reachable y

/-- RUN from `s` ends in `t` (R106): some number of steps reaches the Halted `t`. -/
def State.RunsTo (s t : State) : Prop := ∃ fuel reports, State.runFor fuel s = .halted t reports

/-! ## Terms of the claims -/

/-- `t` is `s` with `v` in register `rd` (nothing, if `rd` is x0) and pc at `q`: every other register, the capacity and every
store word are as before (R23, R95). -/
def State.OnlyWrites (s t : State) (rd : RegIx) (v q : Word) : Prop :=
  (∀ r, t.readReg r = if r = 0 then 0 else if r = rd then v else s.readReg r) ∧ t.pc = q ∧
    t.capacity = s.capacity ∧ ∀ i, Memory.read t.store i = Memory.read s.store i

/-- `t` is `s` with pc at `q`: every register, the capacity and every store word are as before. -/
def State.OnlyMovesPc (s t : State) (q : Word) : Prop :=
  (∀ r, t.readReg r = s.readReg r) ∧ t.pc = q ∧
    t.capacity = s.capacity ∧ ∀ i, Memory.read t.store i = Memory.read s.store i

/-- In EVERY state `s` (pc at pc') the instruction answers a next state `t` with `post s t`; its step's status is `st`. -/
def Completes (i : Instr) (st : Status) (post : State → State → Prop) : Prop :=
  statusOfInstr i = st ∧ ∀ s, ∃ t, exec i s = .next t ∧ post s t

/-- Every word with this opcode and funct3 is the instruction `mk` reads from it, under both values of P_DECODE. -/
def DecodesTo (op : BitVec 7) (f3 : BitVec 3) (mk : Word → Instr) : Prop :=
  ∀ p w, opcodeOf w = op → funct3Of w = f3 → decodeWith p w = .instr (mk w)

/-- Of the words with this opcode and funct3, exactly those that meet the STRICT (LENIENT) condition are the instruction `mk`
reads from them under STRICT (LENIENT). -/
def SelectedWhen (op : BitVec 7) (f3 : BitVec 3) (strictOk lenientOk : Word → Prop) (mk : Word → Instr) : Prop :=
  ∀ w, opcodeOf w = op → funct3Of w = f3 →
    (decodeWith .strict w = .instr (mk w) ↔ strictOk w) ∧ (decodeWith .lenient w = .instr (mk w) ↔ lenientOk w)

/-- The nine recognized opcodes (R71, R199). -/
def recognizedOpcodes : List (BitVec 7) :=
  [0b0110111#7, 0b0010111#7, 0b1101111#7, 0b1100111#7, 0b0010011#7, 0b0110011#7, 0b1100011#7, 0b0000011#7, 0b0100011#7]

/-- R74: the selector bits of an OP, OP-IMM shift or JALR word have RV32I's values; every other word is canonical. -/
def strictCanonical (w : Word) : Prop :=
  (opcodeOf w = 0b0110011#7 → funct7Of w = 0b0000000#7 ∨
    (funct7Of w = 0b0100000#7 ∧ (funct3Of w = 0b000#3 ∨ funct3Of w = 0b101#3))) ∧
  (opcodeOf w = 0b0010011#7 → funct3Of w = 0b001#3 → funct7Of w = 0b0000000#7) ∧
  (opcodeOf w = 0b0010011#7 → funct3Of w = 0b101#3 → funct7Of w = 0b0000000#7 ∨ funct7Of w = 0b0100000#7) ∧
  (opcodeOf w = 0b1100111#7 → funct3Of w = 0b000#3)

/-- The words that R73 and R98 call unimplemented. -/
def unimplementedWord (p : DecodeMode) (w : Word) : Prop :=
  opcodeOf w ∉ recognizedOpcodes ∨ opcodeOf w = 0b0000011#7 ∨ opcodeOf w = 0b0100011#7 ∨
    (opcodeOf w = 0b1100011#7 ∧ (funct3Of w = 0b010#3 ∨ funct3Of w = 0b011#3)) ∨
    (p = .strict ∧ ¬ strictCanonical w)

end Sys2Proof.Machine
end

