-- ==== Sys2Proof/Certificates/Slice0/Obligations.lean ====
section
/-! DEFINITION. The statements for the provers. `s.pc` in a statement about `exec` is pc' = idx + 1 (R92); in one about a step
it is idx. A statement that rests on a decision of 92_eei_decisions.md says so. -/

open Sys2Proof Sys2Proof.Machine

/-! ## Reset and invariants -/

/-- RESET(c) leaves every register, pc and every store word at 0 and the capacity at c, for every `c <= 2^30` (R35, R36,
R37). That an index at or above c, where no word is, reads 0 too is the model's (log entry 8). -/
def Obligations.ResetZeroFillsEverything : Prop :=
  ∀ c, c ≤ 2 ^ 30 → ∃ s, State.resetTo c = some s ∧ (∀ r : RegIx, s.readReg r = 0 ∧ s.regs[r.val] = 0) ∧ s.pc = 0 ∧
    s.capacity = c ∧ ∀ i, Memory.read s.store i = 0

/-- The model's reset state is RESET(1024) (the model's choice of C, log entry 3); it and the state after any accepted
RESET(c) meet the invariant: store canonical and inside `[0, C)`, x0 zero, `C <= 2^30`. -/
def Obligations.ResetMeetsInvariant : Prop :=
  State.resetTo 1024 = some State.reset ∧ State.reset.Inv ∧ ∀ c s, State.resetTo c = some s → s.Inv

/-- From every state that meets the invariant, a step answers only states that meet it. The canonical form is the model's
(log entry 7). -/
def Obligations.StepKeepsInvariant : Prop :=
  ∀ s t, s.Inv → step s = .next t → t.Inv

/-- LOAD keeps the invariant, whatever the words and whether or not it accepts them. -/
def Obligations.LoadKeepsInvariant : Prop :=
  ∀ (s : State) (words : List Word), s.Inv → (s.load words).2.Inv

/-- Whatever the moves of core and host after a RESET, during a RUN and between RUNs, the core's state meets the invariant. The
canonical form is the model's (log entry 7), and so is the form of a session (log entry 5). -/
def Obligations.ReachableStatesMeetInvariant : Prop :=
  ∀ x, Reachable x → x.core.Inv

/-- Two canonical stores that read alike everywhere are the same data (the model's representation, log entry 7). -/
def Obligations.CanonicalStoresThatReadAlikeAreEqual : Prop :=
  ∀ m n : Memory, Memory.wf m = true → Memory.wf n = true → (∀ i, Memory.read m i = Memory.read n i) → m = n

/-! ## Encoding and decoding (numeric selector values: 92_eei_decisions.md D7; log entry 2) -/

/-- Decoding the word of any well-formed instruction gives the instruction back, with every operand, under both values of
P_DECODE. -/
def Obligations.DecodeOfEncodeIsTheInstruction : Prop :=
  ∀ p i, i.wf = true → decodeWith p (encode i) = .instr i

/-- Under STRICT the only word of an instruction is its encoding: no bit of a decoded word is dropped. -/
def Obligations.EncodeOfStrictDecodeIsTheWord : Prop :=
  ∀ w i, decodeWith .strict w = .instr i → encode i = w

/-- Whatever the decoder accepts is a well-formed instruction. -/
def Obligations.DecodedInstructionsAreWellFormed : Prop :=
  ∀ p w i, decodeWith p w = .instr i → i.wf = true

/-- The decoder and the opcode table agree, in both directions and under both values of P_DECODE: a word decodes to an
instruction with mnemonic m exactly when a row with mnemonic m matches it. -/
def Obligations.DecoderAgreesWithOpcodeTable : Prop :=
  ∀ p w m, (∃ i, decodeWith p w = .instr i ∧ i.mnemonic = m) ↔
    ∃ r ∈ opcodeRows, r.matchesWord p w = true ∧ r.mnemonic = m

/-- No word matches two rows of the opcode table. -/
def Obligations.OpcodeRowsNeverOverlap : Prop :=
  ∀ p w, ∀ r ∈ opcodeRows, ∀ q ∈ opcodeRows, r.matchesWord p w = true → q.matchesWord p w = true → r = q

/-- P_DECODE changes only what non-canonical words do: a word canonical under R74 decodes alike under both values (the spec
derives this: R10). -/
def Obligations.CanonicalWordsDecodeAlike : Prop :=
  ∀ w, strictCanonical w → decodeWith .strict w = decodeWith .lenient w

/-- Under LENIENT every OP, OP-IMM and JALR word is an executed instruction (92_eei_decisions.md D6). -/
def Obligations.LenientExecutesEveryAluAndJalrWord : Prop :=
  ∀ w, opcodeOf w = 0b0110011#7 ∨ opcodeOf w = 0b0010011#7 ∨ opcodeOf w = 0b1100111#7 →
    ∃ i, decodeWith .lenient w = .instr i ∧ statusOfInstr i = .executed

/-- The default immediate is the sign-extended `w[31:20]`, the upper immediate is `w & 0xFFFFF000` (R63, R64). -/
def Obligations.DefaultAndUpperImmediates : Prop :=
  ∀ w : Word,
    (∀ k < 32, (immI (immIOf w)).getLsbD k = if k < 12 then w.getLsbD (20 + k) else w.getLsbD 31) ∧
    (∀ k < 32, (immU (immUOf w)).getLsbD k = if k < 12 then false else w.getLsbD k) ∧
    immU (immUOf w) = w &&& 0xFFFFF000#32

/-- Where each bit of a word goes in the jump and branch immediates, how they are extended, and their ranges (R65, R66; that
bit 0 is 0 is the spec's inference from the source's bit list). -/
def Obligations.JumpAndBranchImmediates : Prop :=
  ∀ w : Word,
    (∀ k < 32, (immJ (offJOf w)).getLsbD k =
      if k = 0 then false else if k ≤ 10 then w.getLsbD (20 + k) else if k = 11 then w.getLsbD 20
      else if k ≤ 19 then w.getLsbD k else w.getLsbD 31) ∧
    (-(2 ^ 20) ≤ (immJ (offJOf w)).toInt ∧ (immJ (offJOf w)).toInt ≤ 2 ^ 20 - 2) ∧
    (∀ k < 32, (immB (offBOf w)).getLsbD k =
      if k = 0 then false else if k ≤ 4 then w.getLsbD (7 + k) else if k ≤ 10 then w.getLsbD (20 + k)
      else if k = 11 then w.getLsbD 7 else w.getLsbD 31) ∧
    (-4096 ≤ (immB (offBOf w)).toInt ∧ (immB (offBOf w)).toInt ≤ 4094)

/-- Words written out from the spec's encodings decode to the instructions they stand for, under both values of P_DECODE
(the words of 41 to 46's examples). -/
def Obligations.ExampleWordsDecode : Prop :=
  ∀ p, decodeWith p 0x123452B7#32 = .instr (.lui 5 0x12345#20) ∧
    decodeWith p 0x00000317#32 = .instr (.auipc 6 0#20) ∧
    decodeWith p 0xFE9FF0EF#32 = .instr (.jal 1 (-24#21)) ∧
    decodeWith p 0xFD4100E7#32 = .instr (.jalr 1 2 (-44#12)) ∧
    decodeWith p 0x80008093#32 = .instr (.addi 1 1 (-2048#12)) ∧
    decodeWith p 0x4040D113#32 = .instr (.srai 2 1 4#5) ∧
    decodeWith p 0x402081B3#32 = .instr (.sub 3 1 2) ∧
    decodeWith p 0xFE209EE3#32 = .instr (.bne 1 2 (-4#13)) ∧
    decodeWith p 0x00002383#32 = .instr (.lw 7 0 0#12) ∧
    decodeWith p 0x00502023#32 = .instr (.sw 0 5 0#12) ∧
    decodeWith p 0x0FF0000F#32 = .instr (.fence 0 0 0x0FF#12) ∧
    decodeWith p 0x300110F3#32 = .instr (.csrrw 1 2 0x300#12)

/-! ## Results, frames and completion, family by family. Which words select an instruction rests on the spec's own choice of
RV32I's opcode and function codes (92_eei_decisions.md D7; log entry 2) and of the fields' places (D13; log entry 20) -/

/-- LUI (R110): rd becomes `w & 0xFFFFF000`; nothing else changes; every word with opcode 0110111 is a LUI. -/
def Obligations.LuiWritesUpperImmediate : Prop :=
  (∀ p w, opcodeOf w = 0b0110111#7 → decodeWith p w = .instr (.lui (rdOf w) (immUOf w)) ∧
    Completes (.lui (rdOf w) (immUOf w)) .executed fun s t => s.OnlyWrites t (rdOf w) (w &&& 0xFFFFF000#32) s.pc) ∧
  ∀ rd imm, Completes (.lui rd imm) .executed fun s t =>
    s.OnlyWrites t rd (BitVec.ofNat 32 (imm.toNat * 4096)) s.pc

/-- AUIPC: rd becomes pc' + immU, the advanced word index plus the upper immediate. That the counter is the advanced one is
the spec's own decision 92_eei_decisions.md D5 (log entry 11). -/
def Obligations.AuipcAddsToAdvancedWordIndex : Prop :=
  (∀ p w, opcodeOf w = 0b0010111#7 → decodeWith p w = .instr (.auipc (rdOf w) (immUOf w))) ∧
  ∀ rd imm, Completes (.auipc rd imm) .executed fun s t =>
    s.OnlyWrites t rd (s.pc + BitVec.ofNat 32 (imm.toNat * 4096)) s.pc

/-- JAL: rd becomes `pc' * 4`, pc becomes `(pc' - 1) + floor(immJ / 4)`. The rounding and the 32-bit wrap are the spec's own
decisions 92_eei_decisions.md D2 and D3 (log entries 9 and 14). -/
def Obligations.JalLinksAndJumps : Prop :=
  (∀ p w, opcodeOf w = 0b1101111#7 → decodeWith p w = .instr (.jal (rdOf w) (offJOf w))) ∧
  ∀ rd off, Completes (.jal rd off) .executed fun s t =>
    s.OnlyWrites t rd (s.pc * 4#32) ((s.pc - 1#32) + BitVec.ofInt 32 (off.toInt / 4))

/-- JALR: rd becomes `pc' * 4`, pc becomes the old `x[rs1]` plus the immediate, bit 0 cleared, divided by 4. Reading rs1 before
the link is written is the spec's own decision 92_eei_decisions.md D4 (log entry 10). -/
def Obligations.JalrLinksAndJumpsToRegister : Prop :=
  SelectedWhen 0b1100111#7 0b000#3 (fun _ => True) (fun _ => True) (fun w => .jalr (rdOf w) (rs1Of w) (immIOf w)) ∧
  (∀ w, opcodeOf w = 0b1100111#7 → funct3Of w ≠ 0b000#3 → (∃ r, decodeWith .strict w = .rejected r) ∧
    decodeWith .lenient w = .instr (.jalr (rdOf w) (rs1Of w) (immIOf w))) ∧
  ∀ rd rs1 imm, Completes (.jalr rd rs1 imm) .executed fun s t =>
    s.OnlyWrites t rd (s.pc * 4#32)
      (BitVec.ofNat 32 (((s.readReg rs1 + imm.signExtend 32) &&& ~~~1#32).toNat / 4))

/-- ADDI, SLTIU, XORI, ORI, ANDI (R130, R132, R133, R134, R135): rd becomes the operation on the old `x[rs1]` and the
sign-extended immediate; nothing else changes. -/
def Obligations.ImmediateArithmeticAndLogic : Prop :=
  DecodesTo 0b0010011#7 0b000#3 (fun w => .addi (rdOf w) (rs1Of w) (immIOf w)) ∧
  DecodesTo 0b0010011#7 0b011#3 (fun w => .sltiu (rdOf w) (rs1Of w) (immIOf w)) ∧
  DecodesTo 0b0010011#7 0b100#3 (fun w => .xori (rdOf w) (rs1Of w) (immIOf w)) ∧
  DecodesTo 0b0010011#7 0b110#3 (fun w => .ori (rdOf w) (rs1Of w) (immIOf w)) ∧
  DecodesTo 0b0010011#7 0b111#3 (fun w => .andi (rdOf w) (rs1Of w) (immIOf w)) ∧
  ∀ rd rs1 imm,
    (Completes (.addi rd rs1 imm) .executed fun s t =>
      s.OnlyWrites t rd (s.readReg rs1 + imm.signExtend 32) s.pc) ∧
    (Completes (.sltiu rd rs1 imm) .executed fun s t =>
      s.OnlyWrites t rd (if (s.readReg rs1).toNat < (imm.signExtend 32).toNat then 1#32 else 0#32) s.pc) ∧
    (Completes (.xori rd rs1 imm) .executed fun s t =>
      s.OnlyWrites t rd (s.readReg rs1 ^^^ imm.signExtend 32) s.pc) ∧
    (Completes (.ori rd rs1 imm) .executed fun s t =>
      s.OnlyWrites t rd (s.readReg rs1 ||| imm.signExtend 32) s.pc) ∧
    (Completes (.andi rd rs1 imm) .executed fun s t =>
      s.OnlyWrites t rd (s.readReg rs1 &&& imm.signExtend 32) s.pc)

/-- SLTI and SLT: rd becomes 1 when the old `x[rs1]` is less, as a signed number, than the sign-extended immediate or the old
`x[rs2]`, else 0. That signed means two's complement is the spec's own decision 92_eei_decisions.md D15 (log entry 19). -/
def Obligations.SignedSetLessThan : Prop :=
  DecodesTo 0b0010011#7 0b010#3 (fun w => .slti (rdOf w) (rs1Of w) (immIOf w)) ∧
  SelectedWhen 0b0110011#7 0b010#3 (fun w => funct7Of w = 0b0000000#7) (fun _ => True)
    (fun w => .slt (rdOf w) (rs1Of w) (rs2Of w)) ∧
  (∀ rd rs1 imm, Completes (.slti rd rs1 imm) .executed fun s t =>
    s.OnlyWrites t rd (if (s.readReg rs1).toInt < imm.toInt then 1#32 else 0#32) s.pc) ∧
  ∀ rd rs1 rs2, Completes (.slt rd rs1 rs2) .executed fun s t =>
    s.OnlyWrites t rd (if (s.readReg rs1).toInt < (s.readReg rs2).toInt then 1#32 else 0#32) s.pc

/-- SLLI, SRLI, SRAI (R136, R137, R138): the amount is `w[24:20]`; left shift multiplies by a power of two modulo 2^32,
logical right divides the unsigned value, arithmetic right divides the signed value rounding down. -/
def Obligations.ImmediateShifts : Prop :=
  SelectedWhen 0b0010011#7 0b001#3 (fun w => funct7Of w = 0b0000000#7) (fun _ => True)
    (fun w => .slli (rdOf w) (rs1Of w) (shamtOf w)) ∧
  SelectedWhen 0b0010011#7 0b101#3 (fun w => funct7Of w = 0b0000000#7) (fun w => w.getLsbD 30 = false)
    (fun w => .srli (rdOf w) (rs1Of w) (shamtOf w)) ∧
  SelectedWhen 0b0010011#7 0b101#3 (fun w => funct7Of w = 0b0100000#7) (fun w => w.getLsbD 30 = true)
    (fun w => .srai (rdOf w) (rs1Of w) (shamtOf w)) ∧
  ∀ rd rs1 sh,
    (Completes (.slli rd rs1 sh) .executed fun s t =>
      s.OnlyWrites t rd (BitVec.ofNat 32 ((s.readReg rs1).toNat * 2 ^ sh.toNat)) s.pc) ∧
    (Completes (.srli rd rs1 sh) .executed fun s t =>
      s.OnlyWrites t rd (BitVec.ofNat 32 ((s.readReg rs1).toNat / 2 ^ sh.toNat)) s.pc) ∧
    (Completes (.srai rd rs1 sh) .executed fun s t =>
      s.OnlyWrites t rd (BitVec.ofInt 32 ((s.readReg rs1).toInt / 2 ^ sh.toNat)) s.pc)

/-- ADD, SUB, SLTU, XOR, OR, AND (R150, R151, R154, R155, R158, R159): rd becomes the operation on the old `x[rs1]` and
`x[rs2]`; nothing else changes; which words select each, under both values of P_DECODE. -/
def Obligations.RegisterArithmeticAndLogic : Prop :=
  SelectedWhen 0b0110011#7 0b000#3 (fun w => funct7Of w = 0b0000000#7) (fun w => w.getLsbD 30 = false)
    (fun w => .add (rdOf w) (rs1Of w) (rs2Of w)) ∧
  SelectedWhen 0b0110011#7 0b000#3 (fun w => funct7Of w = 0b0100000#7) (fun w => w.getLsbD 30 = true)
    (fun w => .sub (rdOf w) (rs1Of w) (rs2Of w)) ∧
  SelectedWhen 0b0110011#7 0b011#3 (fun w => funct7Of w = 0b0000000#7) (fun _ => True)
    (fun w => .sltu (rdOf w) (rs1Of w) (rs2Of w)) ∧
  SelectedWhen 0b0110011#7 0b100#3 (fun w => funct7Of w = 0b0000000#7) (fun _ => True)
    (fun w => .xor (rdOf w) (rs1Of w) (rs2Of w)) ∧
  SelectedWhen 0b0110011#7 0b110#3 (fun w => funct7Of w = 0b0000000#7) (fun _ => True)
    (fun w => .or (rdOf w) (rs1Of w) (rs2Of w)) ∧
  SelectedWhen 0b0110011#7 0b111#3 (fun w => funct7Of w = 0b0000000#7) (fun _ => True)
    (fun w => .and (rdOf w) (rs1Of w) (rs2Of w)) ∧
  ∀ rd rs1 rs2,
    (Completes (.add rd rs1 rs2) .executed fun s t =>
      s.OnlyWrites t rd (s.readReg rs1 + s.readReg rs2) s.pc) ∧
    (Completes (.sub rd rs1 rs2) .executed fun s t =>
      s.OnlyWrites t rd (s.readReg rs1 - s.readReg rs2) s.pc) ∧
    (Completes (.sltu rd rs1 rs2) .executed fun s t =>
      s.OnlyWrites t rd (if (s.readReg rs1).toNat < (s.readReg rs2).toNat then 1#32 else 0#32) s.pc) ∧
    (Completes (.xor rd rs1 rs2) .executed fun s t =>
      s.OnlyWrites t rd (s.readReg rs1 ^^^ s.readReg rs2) s.pc) ∧
    (Completes (.or rd rs1 rs2) .executed fun s t =>
      s.OnlyWrites t rd (s.readReg rs1 ||| s.readReg rs2) s.pc) ∧
    (Completes (.and rd rs1 rs2) .executed fun s t =>
      s.OnlyWrites t rd (s.readReg rs1 &&& s.readReg rs2) s.pc)

/-- SLL, SRL, SRA: the amount is the old `x[rs2]` modulo 32. The mask is the spec's own decision 92_eei_decisions.md D14 (log
entry 12). -/
def Obligations.RegisterShifts : Prop :=
  SelectedWhen 0b0110011#7 0b001#3 (fun w => funct7Of w = 0b0000000#7) (fun _ => True)
    (fun w => .sll (rdOf w) (rs1Of w) (rs2Of w)) ∧
  SelectedWhen 0b0110011#7 0b101#3 (fun w => funct7Of w = 0b0000000#7) (fun w => w.getLsbD 30 = false)
    (fun w => .srl (rdOf w) (rs1Of w) (rs2Of w)) ∧
  SelectedWhen 0b0110011#7 0b101#3 (fun w => funct7Of w = 0b0100000#7) (fun w => w.getLsbD 30 = true)
    (fun w => .sra (rdOf w) (rs1Of w) (rs2Of w)) ∧
  ∀ rd rs1 rs2,
    (Completes (.sll rd rs1 rs2) .executed fun s t =>
      s.OnlyWrites t rd (BitVec.ofNat 32 ((s.readReg rs1).toNat * 2 ^ ((s.readReg rs2).toNat % 32))) s.pc) ∧
    (Completes (.srl rd rs1 rs2) .executed fun s t =>
      s.OnlyWrites t rd (BitVec.ofNat 32 ((s.readReg rs1).toNat / 2 ^ ((s.readReg rs2).toNat % 32))) s.pc) ∧
    (Completes (.sra rd rs1 rs2) .executed fun s t =>
      s.OnlyWrites t rd (BitVec.ofInt 32 ((s.readReg rs1).toInt / 2 ^ ((s.readReg rs2).toNat % 32))) s.pc)

/-- BEQ, BNE, BLT, BGE, BLTU, BGEU: pc becomes `(pc' - 1) + floor(immB / 4)` when the condition holds of `x[rs1]` and
`x[rs2]`, and stays pc' otherwise; nothing else changes. The rounding, the 32-bit wrap and the two's complement reading are
the spec's own decisions 92_eei_decisions.md D2, D3 and D15 (log entries 9, 14 and 19). -/
def Obligations.BranchesCompareAndMovePc : Prop :=
  let branch (f3 : BitVec 3) (mk : RegIx → RegIx → BitVec 13 → Instr) (cond : Word → Word → Prop) : Prop :=
    DecodesTo 0b1100011#7 f3 (fun w => mk (rs1Of w) (rs2Of w) (offBOf w)) ∧
    ∀ rs1 rs2 off, Completes (mk rs1 rs2 off) .executed fun s t =>
      (cond (s.readReg rs1) (s.readReg rs2) →
        s.OnlyMovesPc t ((s.pc - 1#32) + BitVec.ofInt 32 (off.toInt / 4))) ∧
      (¬ cond (s.readReg rs1) (s.readReg rs2) → s.OnlyMovesPc t s.pc)
  branch 0b000#3 .beq (fun a b => a = b) ∧
  branch 0b001#3 .bne (fun a b => a ≠ b) ∧
  branch 0b100#3 .blt (fun a b => a.toInt < b.toInt) ∧
  branch 0b101#3 .bge (fun a b => b.toInt ≤ a.toInt) ∧
  branch 0b110#3 .bltu (fun a b => a.toNat < b.toNat) ∧
  branch 0b111#3 .bgeu (fun a b => b.toNat ≤ a.toNat)

/-- LB, LH, LW, LBU, LHU, SB, SH, SW (R190 to R197): in every state no register and no store word changes, pc stays pc', and
the status is Unimplemented. -/
def Obligations.LoadsAndStoresAreNoOps : Prop :=
  DecodesTo 0b0000011#7 0b000#3 (fun w => .lb (rdOf w) (rs1Of w) (immIOf w)) ∧
  DecodesTo 0b0000011#7 0b001#3 (fun w => .lh (rdOf w) (rs1Of w) (immIOf w)) ∧
  DecodesTo 0b0000011#7 0b010#3 (fun w => .lw (rdOf w) (rs1Of w) (immIOf w)) ∧
  DecodesTo 0b0000011#7 0b100#3 (fun w => .lbu (rdOf w) (rs1Of w) (immIOf w)) ∧
  DecodesTo 0b0000011#7 0b101#3 (fun w => .lhu (rdOf w) (rs1Of w) (immIOf w)) ∧
  DecodesTo 0b0100011#7 0b000#3 (fun w => .sb (rs1Of w) (rs2Of w) (immSOf w)) ∧
  DecodesTo 0b0100011#7 0b001#3 (fun w => .sh (rs1Of w) (rs2Of w) (immSOf w)) ∧
  DecodesTo 0b0100011#7 0b010#3 (fun w => .sw (rs1Of w) (rs2Of w) (immSOf w)) ∧
  ∀ a b imm, ∀ i ∈ [Instr.lb a b imm, .lh a b imm, .lw a b imm, .lbu a b imm, .lhu a b imm, .sb a b imm, .sh a b imm,
      .sw a b imm],
    Completes i .unimplemented fun s t => s.OnlyMovesPc t s.pc

/-- FENCE, FENCE.I, ECALL, EBREAK, the six CSR instructions, MRET, SRET, WFI, SFENCE.VMA (R201 to R205): in every state no
register and no store word changes, pc stays pc', and the status is Unimplemented. -/
def Obligations.SystemAndFenceWordsAreNoOps : Prop :=
  DecodesTo 0b0001111#7 0b000#3 (fun w => .fence (rdOf w) (rs1Of w) (immIOf w)) ∧
  DecodesTo 0b0001111#7 0b001#3 (fun w => .fenceI (rdOf w) (rs1Of w) (immIOf w)) ∧
  DecodesTo 0b1110011#7 0b001#3 (fun w => .csrrw (rdOf w) (rs1Of w) (immIOf w)) ∧
  DecodesTo 0b1110011#7 0b010#3 (fun w => .csrrs (rdOf w) (rs1Of w) (immIOf w)) ∧
  DecodesTo 0b1110011#7 0b011#3 (fun w => .csrrc (rdOf w) (rs1Of w) (immIOf w)) ∧
  DecodesTo 0b1110011#7 0b101#3 (fun w => .csrrwi (rdOf w) (uimmOf w) (immIOf w)) ∧
  DecodesTo 0b1110011#7 0b110#3 (fun w => .csrrsi (rdOf w) (uimmOf w) (immIOf w)) ∧
  DecodesTo 0b1110011#7 0b111#3 (fun w => .csrrci (rdOf w) (uimmOf w) (immIOf w)) ∧
  (∀ p, decodeWith p 0x00000073#32 = .instr .ecall ∧ decodeWith p 0x00100073#32 = .instr .ebreak ∧
    decodeWith p 0x30200073#32 = .instr .mret ∧ decodeWith p 0x10200073#32 = .instr .sret ∧
    decodeWith p 0x10500073#32 = .instr .wfi) ∧
  (∀ p w, opcodeOf w = 0b1110011#7 → funct3Of w = 0b000#3 → funct7Of w = 0b0001001#7 →
    statusOfDecoded (decodeWith p w) = .unimplemented ∧
    (rdOf w = 0 → decodeWith p w = .instr (.sfenceVma (rs1Of w) (rs2Of w)))) ∧
  ∀ a b (x : BitVec 12) (u : BitVec 5),
    ∀ i ∈ [Instr.fence a b x, .fenceI a b x, .ecall, .ebreak, .csrrw a b x, .csrrs a b x, .csrrc a b x, .csrrwi a u x,
        .csrrsi a u x, .csrrci a u x, .mret, .sret, .wfi, .sfenceVma a b],
      Completes i .unimplemented fun s t => s.OnlyMovesPc t s.pc

/-! ## The step -/

/-- The step of a Running core reads the word at pc, advances pc to idx + 1, changing nothing else, and then runs what the
word decodes to: exec of the instruction, or the one meaning of rejected words (R73, R91, R92, R93, R95). That exec is given
the advanced state, and that words without a row are rejected and have one meaning, is the model's split of R99 (log entries 15
and 16); `step` is the step under the core's P_DECODE (log entry 1). -/
def Obligations.StepRunsTheDecodedInstruction : Prop :=
  (∀ s, step s = stepWith Config.decodeMode s) ∧
  (∀ s : State, s.advance.pc = s.pc + 1#32 ∧ s.advance.regs = s.regs ∧ s.advance.store = s.store ∧
    s.advance.capacity = s.capacity) ∧
  ∀ p s, s.pc.toNat < s.capacity →
    (∀ i, decodeWith p (Memory.read s.store s.pc.toNat) = .instr i → stepWith p s = exec i s.advance) ∧
    (∀ r, decodeWith p (Memory.read s.store s.pc.toNat) = .rejected r → stepWith p s = execRejected r s.advance)

/-- A Running core always completes a step: no instruction and no word faults, traps or is refused. A Halted core has no
step, which the model answers with its one named fault (log entry 4). -/
def Obligations.RunningCoreAlwaysCompletesItsStep : Prop :=
  ∀ p s, (s.pc.toNat < s.capacity → ∃ t, stepWith p s = .next t) ∧
    (s.capacity ≤ s.pc.toNat → stepWith p s = .fault .halted)

/-- The Halted state is absorbing (R102): no step leaves it, a LOAD changes neither pc nor that the core is Halted, and RESET
puts pc to 0. -/
def Obligations.HaltedIsAbsorbing : Prop :=
  (∀ s, s.capacity ≤ s.pc.toNat →
    (∀ p t, stepWith p s ≠ .next t) ∧
    ∀ words, (s.load words).2.pc = s.pc ∧ (s.load words).2.running = false) ∧
  ∀ c s, State.resetTo c = some s → s.pc = 0

/-- Every word that R73 lists (unrecognized opcode, LOAD, STORE, BRANCH with funct3 010 or 011, non-canonical under STRICT)
steps as a no-op that only advances pc and reports Unimplemented (R73, R177, R198, R199). -/
def Obligations.UnimplementedWordsAreNoOps : Prop :=
  ∀ p s w, s.fetch = some w → unimplementedWord p w →
    (∃ t, stepWith p s = .next t ∧ s.OnlyMovesPc t (s.pc + 1#32)) ∧
    s.reportWith p = some { idx := s.pc, w := w, status := .unimplemented }

/-- Every step reports exactly one status with idx and w: Unimplemented for the words R98 lists, Executed otherwise; a Halted
core reports nothing (R98). -/
def Obligations.EveryStepReportsItsStatus : Prop :=
  ∀ (p : DecodeMode) (s : State), (∀ w, s.fetch = some w → ∃ st, s.reportWith p = some { idx := s.pc, w := w, status := st } ∧
      (unimplementedWord p w → st = .unimplemented) ∧ (¬ unimplementedWord p w → st = .executed)) ∧
    (s.fetch = none → s.reportWith p = none)

/-- A run through a zero-filled tail takes one Unimplemented step per zero word and halts at pc = C, every register and the
store as before (R200). -/
def Obligations.ZeroTailRunsToHalt : Prop :=
  ∀ s : State, s.capacity ≤ 2 ^ 30 → s.pc.toNat ≤ s.capacity →
    (∀ i, s.pc.toNat ≤ i → i < s.capacity → Memory.read s.store i = 0) →
    ∃ t rs, State.runFor (s.capacity - s.pc.toNat) s = .halted t rs ∧ t.pc.toNat = s.capacity ∧
      (∀ r, t.readReg r = s.readReg r) ∧ t.store = s.store ∧ t.capacity = s.capacity ∧
      rs.length = s.capacity - s.pc.toNat ∧ ∀ x ∈ rs, x.w = 0 ∧ x.status = .unimplemented

/-! ## Whole-machine rules -/

/-- After every step, from any state, x0 holds and reads 0 (the source's invariant in R23 and R96). -/
def Obligations.X0IsZeroAfterEveryStep : Prop :=
  ∀ p s t, stepWith p s = .next t → t.regs[0] = 0 ∧ t.readReg 0 = 0

/-- A step writes no register but the one its word's rd field names: "No register is implicitly read or written". -/
def Obligations.StepWritesOnlyTheRdRegister : Prop :=
  ∀ p s t w, s.fetch = some w → stepWith p s = .next t → ∀ r, r ≠ rdOf w → t.readReg r = s.readReg r

/-- No step, LOAD or RUN changes the capacity (R241), and no step or RUN changes the Program Store: only LOAD writes it (R42,
R95, R106). RUN is the model's fuel-bounded form (log entry 18; 92_eei_decisions.md D20), whether it ends or its fuel runs out;
that it has no other result is RunReturnsOnlyWhenHalted. -/
def Obligations.CapacityIsFixedAndOnlyLoadWritesTheStore : Prop :=
  (∀ p s t, stepWith p s = .next t → t.capacity = s.capacity ∧ t.store = s.store) ∧
  (∀ (s : State) (words : List Word), (s.load words).2.capacity = s.capacity) ∧
  ∀ fuel s t rs, State.runFor fuel s = .halted t rs ∨ State.runFor fuel s = .outOfFuel t rs →
    t.capacity = s.capacity ∧ t.store = s.store

/-- Where pc goes (R97): to idx + 1, or to the target of a JAL, JALR or BRANCH word; targets in words, modulo 2^32
(92_eei_decisions.md D2 and D3). -/
def Obligations.PcGoesToTheNextWordOrATarget : Prop :=
  ∀ p s t w, s.fetch = some w → stepWith p s = .next t →
    t.pc = s.pc + 1#32 ∨
    (opcodeOf w = 0b1101111#7 ∧ t.pc = s.pc + BitVec.ofInt 32 ((offJOf w).toInt / 4)) ∨
    (opcodeOf w = 0b1100111#7 ∧
      t.pc = ((s.readReg (rs1Of w) + (immIOf w).signExtend 32) &&& ~~~1#32) >>> 2) ∨
    (opcodeOf w = 0b1100011#7 ∧ t.pc = s.pc + BitVec.ofInt 32 ((offBOf w).toInt / 4))

/-- A JAL or BRANCH word either falls through (BRANCH only), or goes to exactly idx + floor(offset / 4) in the integers, or that
is below 0 and pc wraps to at least 2^32 - 2^18, where the core is Halted (the spec derives this: R27; D2, D3). -/
def Obligations.TargetsBelowZeroHalt : Prop :=
  ∀ p s t w, s.capacity ≤ 2 ^ 30 → s.fetch = some w → stepWith p s = .next t →
    opcodeOf w = 0b1101111#7 ∨ opcodeOf w = 0b1100011#7 →
    let k : Int := if opcodeOf w = 0b1101111#7 then (offJOf w).toInt / 4 else (offBOf w).toInt / 4
    (opcodeOf w = 0b1100011#7 ∧ t.pc.toNat = s.pc.toNat + 1) ∨
    (0 ≤ (s.pc.toNat : Int) + k ∧ (t.pc.toNat : Int) = (s.pc.toNat : Int) + k) ∨
    ((s.pc.toNat : Int) + k < 0 ∧ 2 ^ 32 - 2 ^ 18 ≤ t.pc.toNat ∧ t.running = false)

/-- A JALR through the link a JAL wrote returns to the instruction after the JAL (42_jumps.md, JAL's corner cases; the spec's
decision D3 bounds the counter). -/
def Obligations.ReturnThroughLinkComesBack : Prop :=
  ∀ s t u v rd off, rd ≠ 0 → s.pc.toNat < 2 ^ 30 → exec (.jal rd off) s = .next t → u.readReg rd = t.readReg rd →
    exec (.jalr 0 rd 0#12) u = .next v → v.pc = s.pc

/-- The only store word a step reads is `Store[pc]`: with any other store that has the same word there, it takes the same step
(20_memory.md; R14's "The only memory read is the fetch"). -/
def Obligations.StepReadsOnlyTheFetchedWord : Prop :=
  ∀ p s t m, Memory.read m s.pc.toNat = Memory.read s.store s.pc.toNat → stepWith p s = .next t →
    stepWith p { s with store := m } = .next { t with store := m }

/-- The only registers a step reads are those its word's rs1 and rs2 fields name: two states with the same pc, capacity, store
and values there take steps to the same pc, and each register either becomes equal in both or keeps its value in both. -/
def Obligations.StepReadsOnlyItsSourceRegisters : Prop :=
  ∀ p s s' t t' w, s.fetch = some w → s'.pc = s.pc → s'.capacity = s.capacity → s'.store = s.store →
    s'.readReg (rs1Of w) = s.readReg (rs1Of w) → s'.readReg (rs2Of w) = s.readReg (rs2Of w) →
    stepWith p s = .next t → stepWith p s' = .next t' →
    t'.pc = t.pc ∧
      ∀ r, t'.readReg r = t.readReg r ∨ (t'.readReg r = s'.readReg r ∧ t.readReg r = s.readReg r)

/-! ## Host operations -/

/-- LOAD: a program longer than C is rejected and changes nothing; else word i of the program stands at index i, every other
store word, pc, every register and the capacity are as before. That LOAD changes nothing else is the spec's own decision
92_eei_decisions.md D10. -/
def Obligations.LoadWritesTheProgramOrNothing : Prop :=
  ∀ (s : State) (words : List Word), Memory.wf s.store = true →
    (s.capacity < words.length → s.load words = (.programTooLarge, s)) ∧
    (words.length ≤ s.capacity →
      (s.load words).1 = .ok ∧
      (∀ i, Memory.read (s.load words).2.store i = words.getD i (Memory.read s.store i)) ∧
      (s.load words).2.pc = s.pc ∧ (s.load words).2.regs = s.regs ∧ (s.load words).2.capacity = s.capacity)

/-- RUN returns only in the Halted state and stops short of it only for want of fuel; a second RUN then takes no step and
returns the same state (40_fetch_and_sequencing.md section 3; 92_eei_decisions.md D9, D20). -/
def Obligations.RunReturnsOnlyWhenHalted : Prop :=
  ∀ fuel s,
    (∃ t rs, State.runFor fuel s = .halted t rs ∧ t.capacity ≤ t.pc.toNat ∧
      ∀ more, State.runFor more t = .halted t []) ∨
    (∃ t rs, State.runFor fuel s = .outOfFuel t rs ∧ t.pc.toNat < t.capacity ∧ rs.length = fuel)

/-- A run that ends has one result: its final state and its reports do not depend on the fuel. -/
def Obligations.RunResultDoesNotDependOnFuel : Prop :=
  ∀ f g s t u rs rs', State.runFor f s = .halted t rs → State.runFor g s = .halted u rs' → t = u ∧ rs = rs'

/-- Who may act when: during a RUN exactly one move is possible, a step if the core is Running and the return if it is Halted;
between RUNs exactly the host's RESET (of an accepted capacity), LOAD, READREG and RUN are (R245; 92_eei_decisions.md D8; a
session is the model's form, log entry 5). -/
def Obligations.HostActsOnlyBetweenRuns : Prop :=
  ∀ (x : Session) (m : HostMove), (∃ a y, x.move m = some (a, y)) ↔
    (x.inRun = true ∧ x.core.pc.toNat < x.core.capacity ∧ m = .step) ∨
    (x.inRun = true ∧ x.core.capacity ≤ x.core.pc.toNat ∧ m = .returnRun) ∨
    (x.inRun = false ∧ ((∃ c ≤ 2 ^ 30, m = .reset c) ∨ (∃ words, m = .load words) ∨ (∃ r, m = .readReg r) ∨ m = .startRun))

/-- What each move reads, writes and answers (R246's table, which the spec derives; log entry 5). -/
def Obligations.MovesDoWhatTheHostTableSays : Prop :=
  ∀ (x y : Session) (a : Answer),
    (∀ c, x.move (.reset c) = some (a, y) → a = .nothing ∧ State.resetTo c = some y.core ∧ y.inRun = false) ∧
    (∀ words, x.move (.load words) = some (a, y) →
      a = .loaded (x.core.load words).1 ∧ y.core = (x.core.load words).2 ∧ y.inRun = false ∧
        y.core.regs = x.core.regs ∧ y.core.pc = x.core.pc ∧ y.core.capacity = x.core.capacity) ∧
    (∀ r, x.move (.readReg r) = some (a, y) →
      a = .value (if r = 0 then 0 else x.core.regs[r.val]) ∧ y = x) ∧
    (x.move .startRun = some (a, y) → a = .nothing ∧ y.core = x.core ∧ y.inRun = true) ∧
    (x.move .step = some (a, y) →
      (∃ r, a = .report r ∧ x.core.report = some r) ∧ step x.core = .next y.core ∧ y.inRun = true ∧
        y.core.store = x.core.store ∧ y.core.capacity = x.core.capacity) ∧
    (x.move .returnRun = some (a, y) → a = .nothing ∧ y.core = x.core ∧ y.inRun = false ∧ y.core.running = false)

/-- RUN as moves and RUN as one operation are the same: the RUN that ends in t with these reports is its start, one step for
each report, and its return; and such moves are always a RUN that ends (R100, R246; fuel and session are the model's forms, log
entries 5 and 18). -/
def Obligations.RunIsItsStepsAndReturn : Prop :=
  (∀ fuel s t rs, State.runFor fuel s = .halted t rs →
    Session.moves (.startRun :: (List.replicate rs.length HostMove.step ++ [.returnRun])) { core := s, inRun := false } =
      some (.nothing :: (rs.map Answer.report ++ [.nothing]), { core := t, inRun := false })) ∧
  ∀ n s answers y,
    Session.moves (.startRun :: (List.replicate n HostMove.step ++ [.returnRun])) { core := s, inRun := false } =
      some (answers, y) →
    ∃ rs, State.runFor n s = .halted y.core rs ∧ rs.length = n

/-- Running is `pc < C`, unsigned, Halted is `pc >= C`, and a step is enabled exactly when the core is Running and a run is in
progress, so never in the Halted state (R90; that the run in progress stands in a session is the form of log entry 5). -/
def Obligations.StepIsEnabledExactlyWhenRunningInARun : Prop :=
  ∀ x : Session,
    (x.core.running = true ↔ x.core.pc.toNat < x.core.capacity) ∧
    (x.core.running = false ↔ x.core.capacity ≤ x.core.pc.toNat) ∧
    ((∃ a y, x.move .step = some (a, y)) ↔ x.core.running = true ∧ x.inRun = true)
end

