-- ==== Sys2Proof/Laws/Decode.lean ====
section
/-! SUPPORT. The decoder opcode by opcode (30_encoding.md R71), so that no proof unfolds the whole dispatch. -/

namespace Sys2Proof

variable {p : DecodeMode} {w : Word}

theorem decodeWith_of_lui (h : opcodeOf w = 0b0110111#7) : decodeWith p w = .instr (.lui (rdOf w) (immUOf w)) := by simp [decodeWith, h]

theorem decodeWith_of_auipc (h : opcodeOf w = 0b0010111#7) : decodeWith p w = .instr (.auipc (rdOf w) (immUOf w)) := by simp [decodeWith, h]

theorem decodeWith_of_jal (h : opcodeOf w = 0b1101111#7) : decodeWith p w = .instr (.jal (rdOf w) (offJOf w)) := by simp [decodeWith, h]

theorem decodeWith_of_jalr (h : opcodeOf w = 0b1100111#7) : decodeWith p w = decodeJalr p w := by simp [decodeWith, h]

theorem decodeWith_of_opImm (h : opcodeOf w = 0b0010011#7) : decodeWith p w = decodeOpImm p w := by simp [decodeWith, h]

theorem decodeWith_of_op (h : opcodeOf w = 0b0110011#7) : decodeWith p w = decodeOp p w := by simp [decodeWith, h]

theorem decodeWith_of_branch (h : opcodeOf w = 0b1100011#7) : decodeWith p w = decodeBranch w := by simp [decodeWith, h]

theorem decodeWith_of_load (h : opcodeOf w = 0b0000011#7) : decodeWith p w = decodeLoad w := by simp [decodeWith, h]

theorem decodeWith_of_store (h : opcodeOf w = 0b0100011#7) : decodeWith p w = decodeStore w := by simp [decodeWith, h]

theorem decodeWith_of_miscMem (h : opcodeOf w = 0b0001111#7) : decodeWith p w = decodeMiscMem w := by simp [decodeWith, h]

theorem decodeWith_of_system (h : opcodeOf w = 0b1110011#7) : decodeWith p w = decodeSystem w := by simp [decodeWith, h]

/-- A word of none of the eleven opcodes is rejected (R199). -/
theorem decodeWith_of_other (h0 : opcodeOf w ≠ 0b0110111#7)
    (h1 : opcodeOf w ≠ 0b0010111#7)
    (h2 : opcodeOf w ≠ 0b1101111#7)
    (h3 : opcodeOf w ≠ 0b1100111#7)
    (h4 : opcodeOf w ≠ 0b0010011#7)
    (h5 : opcodeOf w ≠ 0b0110011#7)
    (h6 : opcodeOf w ≠ 0b1100011#7)
    (h7 : opcodeOf w ≠ 0b0000011#7)
    (h8 : opcodeOf w ≠ 0b0100011#7)
    (h9 : opcodeOf w ≠ 0b0001111#7)
    (h10 : opcodeOf w ≠ 0b1110011#7) :
    decodeWith p w = .rejected .unrecognizedOpcode := by
  simp_all [decodeWith]

/-- The case split of the opcode map: what the decoder does, one case per opcode (R71). -/
theorem decodeWith_cases (p : DecodeMode) (w : Word) :
    (opcodeOf w = 0b0110111#7 ∧ decodeWith p w = .instr (.lui (rdOf w) (immUOf w))) ∨
    (opcodeOf w = 0b0010111#7 ∧ decodeWith p w = .instr (.auipc (rdOf w) (immUOf w))) ∨
    (opcodeOf w = 0b1101111#7 ∧ decodeWith p w = .instr (.jal (rdOf w) (offJOf w))) ∨
    (opcodeOf w = 0b1100111#7 ∧ decodeWith p w = decodeJalr p w) ∨
    (opcodeOf w = 0b0010011#7 ∧ decodeWith p w = decodeOpImm p w) ∨
    (opcodeOf w = 0b0110011#7 ∧ decodeWith p w = decodeOp p w) ∨
    (opcodeOf w = 0b1100011#7 ∧ decodeWith p w = decodeBranch w) ∨
    (opcodeOf w = 0b0000011#7 ∧ decodeWith p w = decodeLoad w) ∨
    (opcodeOf w = 0b0100011#7 ∧ decodeWith p w = decodeStore w) ∨
    (opcodeOf w = 0b0001111#7 ∧ decodeWith p w = decodeMiscMem w) ∨
    (opcodeOf w = 0b1110011#7 ∧ decodeWith p w = decodeSystem w) ∨
    (opcodeOf w ≠ 0b0110111#7 ∧ opcodeOf w ≠ 0b0010111#7 ∧ opcodeOf w ≠ 0b1101111#7 ∧ opcodeOf w ≠ 0b1100111#7 ∧ opcodeOf w ≠ 0b0010011#7 ∧ opcodeOf w ≠ 0b0110011#7 ∧ opcodeOf w ≠ 0b1100011#7 ∧ opcodeOf w ≠ 0b0000011#7 ∧ opcodeOf w ≠ 0b0100011#7 ∧ opcodeOf w ≠ 0b0001111#7 ∧ opcodeOf w ≠ 0b1110011#7 ∧
      decodeWith p w = .rejected .unrecognizedOpcode) := by
  by_cases h_lui : opcodeOf w = 0b0110111#7
  · simp [h_lui, decodeWith_of_lui h_lui]
  by_cases h_auipc : opcodeOf w = 0b0010111#7
  · simp [h_auipc, decodeWith_of_auipc h_auipc]
  by_cases h_jal : opcodeOf w = 0b1101111#7
  · simp [h_jal, decodeWith_of_jal h_jal]
  by_cases h_jalr : opcodeOf w = 0b1100111#7
  · simp [h_jalr, decodeWith_of_jalr h_jalr]
  by_cases h_opImm : opcodeOf w = 0b0010011#7
  · simp [h_opImm, decodeWith_of_opImm h_opImm]
  by_cases h_op : opcodeOf w = 0b0110011#7
  · simp [h_op, decodeWith_of_op h_op]
  by_cases h_branch : opcodeOf w = 0b1100011#7
  · simp [h_branch, decodeWith_of_branch h_branch]
  by_cases h_load : opcodeOf w = 0b0000011#7
  · simp [h_load, decodeWith_of_load h_load]
  by_cases h_store : opcodeOf w = 0b0100011#7
  · simp [h_store, decodeWith_of_store h_store]
  by_cases h_miscMem : opcodeOf w = 0b0001111#7
  · simp [h_miscMem, decodeWith_of_miscMem h_miscMem]
  by_cases h_system : opcodeOf w = 0b1110011#7
  · simp [h_system, decodeWith_of_system h_system]
  simp [*, decodeWith_of_other h_lui h_auipc h_jal h_jalr h_opImm h_op h_branch h_load h_store h_miscMem h_system]

/-- The instruction's operands are the word's own fields. -/
def Instr.FieldsOf (w : Word) : Instr → Prop
  | .lui rd imm | .auipc rd imm => rd = rdOf w ∧ imm = immUOf w
  | .jal rd off => rd = rdOf w ∧ off = offJOf w ∧ opcodeOf w = 0b1101111#7
  | .jalr rd rs1 imm => rd = rdOf w ∧ rs1 = rs1Of w ∧ imm = immIOf w ∧ opcodeOf w = 0b1100111#7
  | .addi rd rs1 imm | .slti rd rs1 imm | .sltiu rd rs1 imm | .xori rd rs1 imm | .ori rd rs1 imm | .andi rd rs1 imm =>
    rd = rdOf w ∧ rs1 = rs1Of w ∧ imm = immIOf w
  | .slli rd rs1 amt | .srli rd rs1 amt | .srai rd rs1 amt => rd = rdOf w ∧ rs1 = rs1Of w ∧ amt = shamtOf w
  | .add rd rs1 rs2 | .sub rd rs1 rs2 | .sll rd rs1 rs2 | .slt rd rs1 rs2 | .sltu rd rs1 rs2 | .xor rd rs1 rs2
  | .srl rd rs1 rs2 | .sra rd rs1 rs2 | .or rd rs1 rs2 | .and rd rs1 rs2 => rd = rdOf w ∧ rs1 = rs1Of w ∧ rs2 = rs2Of w
  | .beq rs1 rs2 off | .bne rs1 rs2 off | .blt rs1 rs2 off | .bge rs1 rs2 off | .bltu rs1 rs2 off | .bgeu rs1 rs2 off =>
    rs1 = rs1Of w ∧ rs2 = rs2Of w ∧ off = offBOf w ∧ opcodeOf w = 0b1100011#7
  | .lb rd rs1 imm | .lh rd rs1 imm | .lw rd rs1 imm | .lbu rd rs1 imm | .lhu rd rs1 imm =>
    rd = rdOf w ∧ rs1 = rs1Of w ∧ imm = immIOf w
  | .sb rs1 rs2 imm | .sh rs1 rs2 imm | .sw rs1 rs2 imm => rs1 = rs1Of w ∧ rs2 = rs2Of w ∧ imm = immSOf w
  | .fence rd rs1 x | .fenceI rd rs1 x | .csrrw rd rs1 x | .csrrs rd rs1 x | .csrrc rd rs1 x =>
    rd = rdOf w ∧ rs1 = rs1Of w ∧ x = immIOf w
  | .csrrwi rd u x | .csrrsi rd u x | .csrrci rd u x => rd = rdOf w ∧ u = uimmOf w ∧ x = immIOf w
  | .ecall | .ebreak | .mret | .sret | .wfi => True
  | .sfenceVma rs1 rs2 => rs1 = rs1Of w ∧ rs2 = rs2Of w

/-- Whatever the decoder accepts has the word's own fields as operands; a jump or branch comes of its opcode only. -/
theorem decodeWith_fieldsOf {i : Instr} (h : decodeWith p w = .instr i) : i.FieldsOf w := by
  rcases decodeWith_cases p w with ⟨-, e⟩ | ⟨-, e⟩ | ⟨o, e⟩ | ⟨o, e⟩ | ⟨-, e⟩ | ⟨-, e⟩ | ⟨o, e⟩ | ⟨-, e⟩ | ⟨-, e⟩ |
      ⟨-, e⟩ | ⟨-, e⟩ | ⟨-, -, -, -, -, -, -, -, -, -, -, e⟩ <;> rw [e] at h
  all_goals
    try simp only [decodeJalr, decodeOpImm, decodeOp, decodeBranch, decodeLoad, decodeStore, decodeMiscMem, decodeSystem,
      decodePriv] at h
  all_goals
    repeat' (first | contradiction | (cases h; simp [Instr.FieldsOf, *]) | split at h)

end Sys2Proof
end

