-- ==== Sys2Proof/Laws/State.lean ====
section
/-! SUPPORT. One lemma per field per update of State, true by rfl, so that no later proof unfolds a record update. -/

namespace Sys2Proof.Machine

@[simp] theorem State.putReg_regs (s : State) (r : RegIx) (v : Word) : (s.putReg r v).regs = s.regs.set r.val v := rfl
@[simp] theorem State.putReg_pc (s : State) (r : RegIx) (v : Word) : (s.putReg r v).pc = s.pc := rfl
@[simp] theorem State.putReg_store (s : State) (r : RegIx) (v : Word) : (s.putReg r v).store = s.store := rfl
@[simp] theorem State.putReg_capacity (s : State) (r : RegIx) (v : Word) : (s.putReg r v).capacity = s.capacity := rfl

@[simp] theorem State.zeroX0_regs (s : State) : s.zeroX0.regs = s.regs.set 0 0 := rfl
@[simp] theorem State.zeroX0_pc (s : State) : s.zeroX0.pc = s.pc := rfl
@[simp] theorem State.zeroX0_store (s : State) : s.zeroX0.store = s.store := rfl
@[simp] theorem State.zeroX0_capacity (s : State) : s.zeroX0.capacity = s.capacity := rfl

@[simp] theorem State.setPc_regs (s : State) (t : Word) : (s.setPc t).regs = s.regs := rfl
@[simp] theorem State.setPc_pc (s : State) (t : Word) : (s.setPc t).pc = t := rfl
@[simp] theorem State.setPc_store (s : State) (t : Word) : (s.setPc t).store = s.store := rfl
@[simp] theorem State.setPc_capacity (s : State) (t : Word) : (s.setPc t).capacity = s.capacity := rfl

@[simp] theorem State.advance_regs (s : State) : s.advance.regs = s.regs := rfl
@[simp] theorem State.advance_pc (s : State) : s.advance.pc = s.pc + 1 := rfl
@[simp] theorem State.advance_store (s : State) : s.advance.store = s.store := rfl
@[simp] theorem State.advance_capacity (s : State) : s.advance.capacity = s.capacity := rfl

@[simp] theorem State.construct_regs (c : Nat) : (State.construct c).regs = Vector.replicate 32 0 := rfl
@[simp] theorem State.construct_pc (c : Nat) : (State.construct c).pc = 0 := rfl
@[simp] theorem State.construct_store (c : Nat) : (State.construct c).store = [] := rfl
@[simp] theorem State.construct_capacity (c : Nat) : (State.construct c).capacity = c := rfl

/-- A register reads alike in states with equal register files. -/
theorem State.readReg_congr {s t : State} (h : t.regs = s.regs) (r : RegIx) : t.readReg r = s.readReg r := by
  simp [State.readReg, h]

@[simp] theorem State.readReg_zero (s : State) : s.readReg 0 = 0 := rfl
@[simp] theorem State.setPc_readReg (s : State) (t : Word) (r : RegIx) : (s.setPc t).readReg r = s.readReg r := rfl
@[simp] theorem State.advance_readReg (s : State) (r : RegIx) : s.advance.readReg r = s.readReg r := rfl

/-- x0 being forced to zero changes no register's reading (R23). -/
@[simp] theorem State.zeroX0_readReg (s : State) (r : RegIx) : s.zeroX0.readReg r = s.readReg r := by
  by_cases h : r = 0
  · simp [State.readReg, h]
  · have : r.val ≠ 0 := fun e => h (Fin.ext e)
    simp [State.readReg, h, Ne.symm this]

/-- A register written reads as the value, every other as before, and x0 as 0 (R23). -/
theorem State.putReg_readReg (s : State) (rd r : RegIx) (v : Word) :
    (s.putReg rd v).readReg r = if r = 0 then 0 else if r = rd then v else s.readReg r := by
  by_cases h : r = 0
  · simp [State.readReg, h]
  · by_cases h' : r = rd
    · subst h'; simp [State.readReg, h]
    · have : rd.val ≠ r.val := fun e => h' (Fin.ext e.symm)
      simp [State.readReg, h, h', this]

end Sys2Proof.Machine
end

