-- ==== Sys2Proof/Laws/Ops.lean ====
section
/-! SUPPORT. What each shared operation over registers, pc and store can do, said once. -/

namespace Sys2Proof.Machine

/-! ## Write-back -/

@[simp] theorem State.commit_store (e : Effect) (s : State) : (s.commit e).store = s.store := by
  rcases e with ⟨_ | ⟨rd, v⟩, _ | t⟩ <;> rfl

@[simp] theorem State.commit_capacity (e : Effect) (s : State) : (s.commit e).capacity = s.capacity := by
  rcases e with ⟨_ | ⟨rd, v⟩, _ | t⟩ <;> rfl

/-- pc is the new pc, or stays (R97). -/
@[simp] theorem State.commit_pc (e : Effect) (s : State) : (s.commit e).pc = e.pc.getD s.pc := by
  rcases e with ⟨_ | ⟨rd, v⟩, _ | t⟩ <;> rfl

/-- x0's own cell is 0 after every write-back, whatever the state before (R96). -/
@[simp] theorem State.commit_x0 (e : Effect) (s : State) : (s.commit e).regs[0] = 0 := by
  rcases e with ⟨_ | ⟨rd, v⟩, _ | t⟩ <;> simp [State.commit]

/-- What a register reads as after a write-back with a result. -/
theorem State.commit_readReg_some (rd r : RegIx) (v : Word) (q : Option Word) (s : State) :
    (s.commit { reg := some (rd, v), pc := q }).readReg r = if r = 0 then 0 else if r = rd then v else s.readReg r := by
  cases q <;> simp [State.commit, State.putReg_readReg]

/-- Without a result every register reads as before. -/
@[simp] theorem State.commit_readReg_none (r : RegIx) (q : Option Word) (s : State) :
    (s.commit { reg := none, pc := q }).readReg r = s.readReg r := by
  cases q <;> simp [State.commit]

/-- A write-back neither reads nor writes the store. -/
theorem State.commit_withStore (e : Effect) (s : State) (m : Memory) :
    State.commit e { s with store := m } = { s.commit e with store := m } := by
  rcases e with ⟨_ | ⟨rd, v⟩, _ | t⟩ <;> rfl

/-- The shared outcomes, as completed effects. -/
theorem writeResult_eq (rd : RegIx) (v : Word) (s : State) :
    writeResult rd v s = .next (s.commit { reg := some (rd, v), pc := none }) := rfl

theorem jumpAndLink_eq (rd : RegIx) (l t : Word) (s : State) :
    jumpAndLink rd l t s = .next (s.commit { reg := some (rd, l), pc := some t }) := rfl

theorem branchIf_eq (c : Bool) (t : Word) (s : State) :
    branchIf c t s = .next (s.commit { reg := none, pc := if c then some t else none }) := rfl

theorem unimplemented_eq (s : State) : unimplemented s = .next (s.commit { reg := none, pc := none }) := rfl

/-! ## Program Store -/

/-- Reading after writing: the value at the written index, the old word elsewhere, in a canonical store. -/
theorem Memory.read_write_of_wfFrom (m : Memory) (lo i j : Nat) (v : Word) (h : Memory.wfFrom lo m = true) :
    Memory.read (Memory.write m i v) j = if j = i then v else Memory.read m j := by
  have absent : ∀ (m : Memory) (lo j : Nat), Memory.wfFrom lo m = true → j < lo → Memory.read m j = 0 := by
    intro m
    induction m with
    | nil => intros; rfl
    | cons e m ih =>
      obtain ⟨a, w⟩ := e
      intro lo j h hj
      simp only [Memory.wfFrom, Bool.and_eq_true, decide_eq_true_eq] at h
      rw [Memory.read, if_neg (by omega)]
      exact ih (a + 1) j h.2 (by omega)
  induction m generalizing lo with
  | nil => rw [Memory.write]; split <;> simp_all [Memory.read]
  | cons e m ih =>
    obtain ⟨a, w⟩ := e
    have hw := h
    simp only [Memory.wfFrom, Bool.and_eq_true, decide_eq_true_eq] at h
    rw [Memory.write]
    split
    · have z : Memory.read ((a, w) :: m) i = 0 :=
        absent ((a, w) :: m) a i (by simp only [Memory.wfFrom, h.1.2, h.2, le_refl, decide_true, Bool.and_self]) (by omega)
      split
      · by_cases hj : j = i
        · simp_all
        · simp [hj]
      · simp [Memory.read]
    · split
      · subst i
        split
        · by_cases hj : j = a
          · simp [absent m (a + 1) a h.2 (by omega), *]
          · simp [Memory.read, hj]
        · by_cases hj : j = a <;> simp [Memory.read, hj]
      · by_cases hj : j = a
        · have : j ≠ i := by omega
          simp only [Memory.read, hj, if_true]
          rw [if_neg (by omega)]
        · simp only [Memory.read, hj, if_false]
          exact ih (a + 1) h.2

theorem Memory.read_write (m : Memory) (i j : Nat) (v : Word) (h : Memory.wf m = true) :
    Memory.read (Memory.write m i v) j = if j = i then v else Memory.read m j :=
  Memory.read_write_of_wfFrom m 0 i j v h

/-- A write keeps the canonical form. -/
theorem Memory.wfFrom_write (m : Memory) (lo i : Nat) (v : Word) (h : Memory.wfFrom lo m = true) (hi : lo ≤ i) :
    Memory.wfFrom lo (Memory.write m i v) = true := by
  induction m generalizing lo with
  | nil => rw [Memory.write]; split <;> simp_all [Memory.wfFrom]
  | cons e m ih =>
    obtain ⟨a, w⟩ := e
    have hw := h
    simp only [Memory.wfFrom, Bool.and_eq_true, decide_eq_true_eq, bne_iff_ne, ne_eq] at h
    rw [Memory.write]
    split
    · split
      · exact hw
      · simp_all [Memory.wfFrom]
    · split
      · subst i
        split
        · have weaken : ∀ (m : Memory) (x y : Nat), x ≤ y → Memory.wfFrom y m = true → Memory.wfFrom x m = true := by
            intro m x y hxy hm
            cases m with
            | nil => rfl
            | cons e m => obtain ⟨b, u⟩ := e; simp_all [Memory.wfFrom]; omega
          exact weaken m lo (a + 1) (by omega) h.2
        · simp_all [Memory.wfFrom]
      · have := ih (a + 1) h.2 (by omega)
        simp_all [Memory.wfFrom]

theorem Memory.wf_write (m : Memory) (i : Nat) (v : Word) (h : Memory.wf m = true) :
    Memory.wf (Memory.write m i v) = true :=
  Memory.wfFrom_write m 0 i v h (Nat.zero_le i)

/-- A write inside `[0, c)` keeps every entry there. -/
theorem Memory.below_write (c : Nat) (m : Memory) (i : Nat) (v : Word) (h : Memory.below c m = true) (hi : i < c) :
    Memory.below c (Memory.write m i v) = true := by
  induction m with
  | nil => rw [Memory.write]; split <;> simp_all [Memory.below]
  | cons e m ih =>
    obtain ⟨a, w⟩ := e
    simp only [Memory.below, Bool.and_eq_true, decide_eq_true_eq] at h
    rw [Memory.write]
    split
    · split <;> simp [Memory.below, h.1, h.2, hi]
    · split
      · split <;> simp [Memory.below, h.2, hi]
      · simp [Memory.below, h.1, ih h.2]

/-- Copying words keeps the canonical form. -/
theorem Memory.wf_writeFrom (ws : List Word) (m : Memory) (i : Nat) (h : Memory.wf m = true) :
    Memory.wf (Memory.writeFrom m i ws) = true := by
  induction ws generalizing m i with
  | nil => exact h
  | cons w ws ih => exact ih _ _ (Memory.wf_write m i w h)

/-! ## Fetch -/

theorem State.running_iff (s : State) : s.running = true ↔ s.pc.toNat < s.capacity := by simp [State.running]

/-- A fetch reads `Store[pc]` of a Running core, and nothing else (R91, R103). -/
theorem State.fetch_eq_some (s : State) (w : Word) :
    s.fetch = some w ↔ s.pc.toNat < s.capacity ∧ Memory.read s.store s.pc.toNat = w := by
  simp only [State.fetch, ← State.running_iff]
  split <;> simp_all

theorem State.fetch_eq_none (s : State) : s.fetch = none ↔ s.capacity ≤ s.pc.toNat := by
  rw [← Nat.not_lt, ← State.running_iff, State.fetch]
  split <;> simp_all

end Sys2Proof.Machine
end

