-- ==== Sys2Proof/Laws/Exec.lean ====
section
/-! SUPPORT. What exec answers for each instruction: one committed effect, said once, so that no proof unfolds a meaning. -/

namespace Sys2Proof.Machine

/-! ## One register result, pc stays pc' -/

theorem exec_lui (rd : RegIx) (imm : BitVec 20) (s : State) :
    exec (.lui rd imm) s = .next (s.commit { reg := some (rd, immU imm), pc := none }) := rfl

theorem exec_auipc (rd : RegIx) (imm : BitVec 20) (s : State) :
    exec (.auipc rd imm) s = .next (s.commit { reg := some (rd, s.pc + immU imm), pc := none }) := rfl

theorem exec_addi (rd rs1 : RegIx) (imm : BitVec 12) (s : State) :
    exec (.addi rd rs1 imm) s = .next (s.commit { reg := some (rd, s.readReg rs1 + immI imm), pc := none }) := rfl

theorem exec_slti (rd rs1 : RegIx) (imm : BitVec 12) (s : State) :
    exec (.slti rd rs1 imm) s = .next (s.commit { reg := some (rd, boolWord (signedLess (s.readReg rs1) (immI imm))), pc := none }) := rfl

theorem exec_sltiu (rd rs1 : RegIx) (imm : BitVec 12) (s : State) :
    exec (.sltiu rd rs1 imm) s = .next (s.commit { reg := some (rd, boolWord (unsignedLess (s.readReg rs1) (immI imm))), pc := none }) := rfl

theorem exec_xori (rd rs1 : RegIx) (imm : BitVec 12) (s : State) :
    exec (.xori rd rs1 imm) s = .next (s.commit { reg := some (rd, s.readReg rs1 ^^^ immI imm), pc := none }) := rfl

theorem exec_ori (rd rs1 : RegIx) (imm : BitVec 12) (s : State) :
    exec (.ori rd rs1 imm) s = .next (s.commit { reg := some (rd, s.readReg rs1 ||| immI imm), pc := none }) := rfl

theorem exec_andi (rd rs1 : RegIx) (imm : BitVec 12) (s : State) :
    exec (.andi rd rs1 imm) s = .next (s.commit { reg := some (rd, s.readReg rs1 &&& immI imm), pc := none }) := rfl

theorem exec_slli (rd rs1 : RegIx) (sh : BitVec 5) (s : State) :
    exec (.slli rd rs1 sh) s = .next (s.commit { reg := some (rd, s.readReg rs1 <<< sh.toNat), pc := none }) := rfl

theorem exec_srli (rd rs1 : RegIx) (sh : BitVec 5) (s : State) :
    exec (.srli rd rs1 sh) s = .next (s.commit { reg := some (rd, s.readReg rs1 >>> sh.toNat), pc := none }) := rfl

theorem exec_srai (rd rs1 : RegIx) (sh : BitVec 5) (s : State) :
    exec (.srai rd rs1 sh) s = .next (s.commit { reg := some (rd, (s.readReg rs1).sshiftRight sh.toNat), pc := none }) := rfl

theorem exec_add (rd rs1 rs2 : RegIx) (s : State) :
    exec (.add rd rs1 rs2) s = .next (s.commit { reg := some (rd, s.readReg rs1 + s.readReg rs2), pc := none }) := rfl

theorem exec_sub (rd rs1 rs2 : RegIx) (s : State) :
    exec (.sub rd rs1 rs2) s = .next (s.commit { reg := some (rd, s.readReg rs1 - s.readReg rs2), pc := none }) := rfl

theorem exec_sll (rd rs1 rs2 : RegIx) (s : State) :
    exec (.sll rd rs1 rs2) s = .next (s.commit { reg := some (rd, s.readReg rs1 <<< shiftAmount (s.readReg rs2)), pc := none }) := rfl

theorem exec_slt (rd rs1 rs2 : RegIx) (s : State) :
    exec (.slt rd rs1 rs2) s = .next (s.commit { reg := some (rd, boolWord (signedLess (s.readReg rs1) (s.readReg rs2))), pc := none }) := rfl

theorem exec_sltu (rd rs1 rs2 : RegIx) (s : State) :
    exec (.sltu rd rs1 rs2) s = .next (s.commit { reg := some (rd, boolWord (unsignedLess (s.readReg rs1) (s.readReg rs2))), pc := none }) := rfl

theorem exec_xor (rd rs1 rs2 : RegIx) (s : State) :
    exec (.xor rd rs1 rs2) s = .next (s.commit { reg := some (rd, s.readReg rs1 ^^^ s.readReg rs2), pc := none }) := rfl

theorem exec_srl (rd rs1 rs2 : RegIx) (s : State) :
    exec (.srl rd rs1 rs2) s = .next (s.commit { reg := some (rd, s.readReg rs1 >>> shiftAmount (s.readReg rs2)), pc := none }) := rfl

theorem exec_sra (rd rs1 rs2 : RegIx) (s : State) :
    exec (.sra rd rs1 rs2) s = .next (s.commit { reg := some (rd, (s.readReg rs1).sshiftRight (shiftAmount (s.readReg rs2))), pc := none }) := rfl

theorem exec_or (rd rs1 rs2 : RegIx) (s : State) :
    exec (.or rd rs1 rs2) s = .next (s.commit { reg := some (rd, s.readReg rs1 ||| s.readReg rs2), pc := none }) := rfl

theorem exec_and (rd rs1 rs2 : RegIx) (s : State) :
    exec (.and rd rs1 rs2) s = .next (s.commit { reg := some (rd, s.readReg rs1 &&& s.readReg rs2), pc := none }) := rfl

/-! ## Link and target -/

theorem exec_jal (rd : RegIx) (off : BitVec 21) (s : State) :
    exec (.jal rd off) s = .next (s.commit { reg := some (rd, link s.pc), pc := some (jalTarget s.pc off) }) := rfl

theorem exec_jalr (rd rs1 : RegIx) (imm : BitVec 12) (s : State) :
    exec (.jalr rd rs1 imm) s =
      .next (s.commit { reg := some (rd, link s.pc), pc := some (jalrTarget (s.readReg rs1) imm) }) := rfl

/-! ## Branches: a target if the condition holds -/

theorem exec_beq (rs1 rs2 : RegIx) (off : BitVec 13) (s : State) :
    exec (.beq rs1 rs2 off) s = .next (s.commit
      { reg := none, pc := if s.readReg rs1 == s.readReg rs2 then some (branchTarget s.pc off) else none }) := rfl

theorem exec_bne (rs1 rs2 : RegIx) (off : BitVec 13) (s : State) :
    exec (.bne rs1 rs2 off) s = .next (s.commit
      { reg := none, pc := if s.readReg rs1 != s.readReg rs2 then some (branchTarget s.pc off) else none }) := rfl

theorem exec_blt (rs1 rs2 : RegIx) (off : BitVec 13) (s : State) :
    exec (.blt rs1 rs2 off) s = .next (s.commit
      { reg := none, pc := if signedLess (s.readReg rs1) (s.readReg rs2) then some (branchTarget s.pc off) else none }) := rfl

theorem exec_bge (rs1 rs2 : RegIx) (off : BitVec 13) (s : State) :
    exec (.bge rs1 rs2 off) s = .next (s.commit
      { reg := none, pc := if !signedLess (s.readReg rs1) (s.readReg rs2) then some (branchTarget s.pc off) else none }) := rfl

theorem exec_bltu (rs1 rs2 : RegIx) (off : BitVec 13) (s : State) :
    exec (.bltu rs1 rs2 off) s = .next (s.commit
      { reg := none, pc := if unsignedLess (s.readReg rs1) (s.readReg rs2) then some (branchTarget s.pc off) else none }) := rfl

theorem exec_bgeu (rs1 rs2 : RegIx) (off : BitVec 13) (s : State) :
    exec (.bgeu rs1 rs2 off) s = .next (s.commit
      { reg := none, pc := if !unsignedLess (s.readReg rs1) (s.readReg rs2) then some (branchTarget s.pc off) else none }) := rfl

/-! ## No-ops -/

/-- Every instruction whose status is Unimplemented commits the empty effect. -/
theorem exec_of_unimplemented (i : Instr) (s : State) (h : statusOfInstr i = .unimplemented) :
    exec i s = .next (s.commit { reg := none, pc := none }) := by
  cases i <;> first | rfl | (simp [statusOfInstr] at h)

/-! ## Every instruction -/

/-- No instruction reads the store: its effect is the same whatever the store holds. -/
theorem exec_withStore (i : Instr) (s : State) (m : Memory) :
    ∃ e : Effect, exec i s = .next (s.commit e) ∧
      exec i { s with store := m } = .next (State.commit e { s with store := m }) := by
  cases i <;> exact ⟨_, rfl, rfl⟩

end Sys2Proof.Machine
end

