-- ==== Sys2Proof/Laws/Fields.lean ====
section
/-! SUPPORT. Reading a field of a word built by an encoding format gives the field back (30_encoding.md R61, R70). -/

namespace Sys2Proof

@[simp] theorem regOf_regBits (r : RegIx) : regOf (regBits r) = r := rfl
@[simp] theorem regBits_regOf (b : BitVec 5) : regBits (regOf b) = b := rfl

/-! ## R format -/

@[simp] theorem wordR_opcodeOf (f7 : BitVec 7) (rs2 rs1 : RegIx) (f3 : BitVec 3) (rd : RegIx) (op : BitVec 7) : opcodeOf (wordR f7 rs2 rs1 f3 rd op) = op := by
  ext i hi
  simp [opcodeOf, wordR, place]
  interval_cases i <;> simp

@[simp] theorem wordR_funct3Of (f7 : BitVec 7) (rs2 rs1 : RegIx) (f3 : BitVec 3) (rd : RegIx) (op : BitVec 7) : funct3Of (wordR f7 rs2 rs1 f3 rd op) = f3 := by
  ext i hi
  simp [funct3Of, wordR, place]
  interval_cases i <;> simp

@[simp] theorem wordR_funct7Of (f7 : BitVec 7) (rs2 rs1 : RegIx) (f3 : BitVec 3) (rd : RegIx) (op : BitVec 7) : funct7Of (wordR f7 rs2 rs1 f3 rd op) = f7 := by
  ext i hi
  simp [funct7Of, wordR, place]
  interval_cases i <;> simp

@[simp] theorem wordR_rdOf (f7 : BitVec 7) (rs2 rs1 : RegIx) (f3 : BitVec 3) (rd : RegIx) (op : BitVec 7) : rdOf (wordR f7 rs2 rs1 f3 rd op) = rd := by
  refine Eq.trans (congrArg regOf (?_ : _ = regBits rd)) (regOf_regBits rd)
  ext i hi
  simp [wordR, place]
  interval_cases i <;> simp

@[simp] theorem wordR_rs1Of (f7 : BitVec 7) (rs2 rs1 : RegIx) (f3 : BitVec 3) (rd : RegIx) (op : BitVec 7) : rs1Of (wordR f7 rs2 rs1 f3 rd op) = rs1 := by
  refine Eq.trans (congrArg regOf (?_ : _ = regBits rs1)) (regOf_regBits rs1)
  ext i hi
  simp [wordR, place]
  interval_cases i <;> simp

@[simp] theorem wordR_rs2Of (f7 : BitVec 7) (rs2 rs1 : RegIx) (f3 : BitVec 3) (rd : RegIx) (op : BitVec 7) : rs2Of (wordR f7 rs2 rs1 f3 rd op) = rs2 := by
  refine Eq.trans (congrArg regOf (?_ : _ = regBits rs2)) (regOf_regBits rs2)
  ext i hi
  simp [wordR, place]
  interval_cases i <;> simp

/-! ## I format -/

@[simp] theorem wordI_opcodeOf (imm : BitVec 12) (rs1 : RegIx) (f3 : BitVec 3) (rd : RegIx) (op : BitVec 7) : opcodeOf (wordI imm rs1 f3 rd op) = op := by
  ext i hi
  simp [opcodeOf, wordI, place]
  interval_cases i <;> simp

@[simp] theorem wordI_funct3Of (imm : BitVec 12) (rs1 : RegIx) (f3 : BitVec 3) (rd : RegIx) (op : BitVec 7) : funct3Of (wordI imm rs1 f3 rd op) = f3 := by
  ext i hi
  simp [funct3Of, wordI, place]
  interval_cases i <;> simp

@[simp] theorem wordI_rdOf (imm : BitVec 12) (rs1 : RegIx) (f3 : BitVec 3) (rd : RegIx) (op : BitVec 7) : rdOf (wordI imm rs1 f3 rd op) = rd := by
  refine Eq.trans (congrArg regOf (?_ : _ = regBits rd)) (regOf_regBits rd)
  ext i hi
  simp [wordI, place]
  interval_cases i <;> simp

@[simp] theorem wordI_rs1Of (imm : BitVec 12) (rs1 : RegIx) (f3 : BitVec 3) (rd : RegIx) (op : BitVec 7) : rs1Of (wordI imm rs1 f3 rd op) = rs1 := by
  refine Eq.trans (congrArg regOf (?_ : _ = regBits rs1)) (regOf_regBits rs1)
  ext i hi
  simp [wordI, place]
  interval_cases i <;> simp

@[simp] theorem wordI_immIOf (imm : BitVec 12) (rs1 : RegIx) (f3 : BitVec 3) (rd : RegIx) (op : BitVec 7) : immIOf (wordI imm rs1 f3 rd op) = imm := by
  ext i hi
  simp [immIOf, wordI, place]
  interval_cases i <;> simp

/-! ## Shift format -/

@[simp] theorem wordShift_opcodeOf (f7 : BitVec 7) (sh : BitVec 5) (rs1 : RegIx) (f3 : BitVec 3) (rd : RegIx) (op : BitVec 7) : opcodeOf (wordShift f7 sh rs1 f3 rd op) = op := by
  ext i hi
  simp [opcodeOf, wordShift, place]
  interval_cases i <;> simp

@[simp] theorem wordShift_funct3Of (f7 : BitVec 7) (sh : BitVec 5) (rs1 : RegIx) (f3 : BitVec 3) (rd : RegIx) (op : BitVec 7) : funct3Of (wordShift f7 sh rs1 f3 rd op) = f3 := by
  ext i hi
  simp [funct3Of, wordShift, place]
  interval_cases i <;> simp

@[simp] theorem wordShift_funct7Of (f7 : BitVec 7) (sh : BitVec 5) (rs1 : RegIx) (f3 : BitVec 3) (rd : RegIx) (op : BitVec 7) : funct7Of (wordShift f7 sh rs1 f3 rd op) = f7 := by
  ext i hi
  simp [funct7Of, wordShift, place]
  interval_cases i <;> simp

@[simp] theorem wordShift_rdOf (f7 : BitVec 7) (sh : BitVec 5) (rs1 : RegIx) (f3 : BitVec 3) (rd : RegIx) (op : BitVec 7) : rdOf (wordShift f7 sh rs1 f3 rd op) = rd := by
  refine Eq.trans (congrArg regOf (?_ : _ = regBits rd)) (regOf_regBits rd)
  ext i hi
  simp [wordShift, place]
  interval_cases i <;> simp

@[simp] theorem wordShift_rs1Of (f7 : BitVec 7) (sh : BitVec 5) (rs1 : RegIx) (f3 : BitVec 3) (rd : RegIx) (op : BitVec 7) : rs1Of (wordShift f7 sh rs1 f3 rd op) = rs1 := by
  refine Eq.trans (congrArg regOf (?_ : _ = regBits rs1)) (regOf_regBits rs1)
  ext i hi
  simp [wordShift, place]
  interval_cases i <;> simp

@[simp] theorem wordShift_shamtOf (f7 : BitVec 7) (sh : BitVec 5) (rs1 : RegIx) (f3 : BitVec 3) (rd : RegIx) (op : BitVec 7) : shamtOf (wordShift f7 sh rs1 f3 rd op) = sh := by
  ext i hi
  simp [shamtOf, wordShift, place]
  interval_cases i <;> simp

/-! ## CsrImm format -/

@[simp] theorem wordCsrImm_opcodeOf (csr : BitVec 12) (uimm : BitVec 5) (f3 : BitVec 3) (rd : RegIx) (op : BitVec 7) : opcodeOf (wordCsrImm csr uimm f3 rd op) = op := by
  ext i hi
  simp [opcodeOf, wordCsrImm, place]
  interval_cases i <;> simp

@[simp] theorem wordCsrImm_funct3Of (csr : BitVec 12) (uimm : BitVec 5) (f3 : BitVec 3) (rd : RegIx) (op : BitVec 7) : funct3Of (wordCsrImm csr uimm f3 rd op) = f3 := by
  ext i hi
  simp [funct3Of, wordCsrImm, place]
  interval_cases i <;> simp

@[simp] theorem wordCsrImm_rdOf (csr : BitVec 12) (uimm : BitVec 5) (f3 : BitVec 3) (rd : RegIx) (op : BitVec 7) : rdOf (wordCsrImm csr uimm f3 rd op) = rd := by
  refine Eq.trans (congrArg regOf (?_ : _ = regBits rd)) (regOf_regBits rd)
  ext i hi
  simp [wordCsrImm, place]
  interval_cases i <;> simp

@[simp] theorem wordCsrImm_uimmOf (csr : BitVec 12) (uimm : BitVec 5) (f3 : BitVec 3) (rd : RegIx) (op : BitVec 7) : uimmOf (wordCsrImm csr uimm f3 rd op) = uimm := by
  ext i hi
  simp [uimmOf, wordCsrImm, place]
  interval_cases i <;> simp

@[simp] theorem wordCsrImm_immIOf (csr : BitVec 12) (uimm : BitVec 5) (f3 : BitVec 3) (rd : RegIx) (op : BitVec 7) : immIOf (wordCsrImm csr uimm f3 rd op) = csr := by
  ext i hi
  simp [immIOf, wordCsrImm, place]
  interval_cases i <;> simp

/-! ## S format -/

@[simp] theorem wordS_opcodeOf (imm : BitVec 12) (rs2 rs1 : RegIx) (f3 : BitVec 3) (op : BitVec 7) : opcodeOf (wordS imm rs2 rs1 f3 op) = op := by
  ext i hi
  simp [opcodeOf, wordS, place]
  interval_cases i <;> simp

@[simp] theorem wordS_funct3Of (imm : BitVec 12) (rs2 rs1 : RegIx) (f3 : BitVec 3) (op : BitVec 7) : funct3Of (wordS imm rs2 rs1 f3 op) = f3 := by
  ext i hi
  simp [funct3Of, wordS, place]
  interval_cases i <;> simp

@[simp] theorem wordS_rs1Of (imm : BitVec 12) (rs2 rs1 : RegIx) (f3 : BitVec 3) (op : BitVec 7) : rs1Of (wordS imm rs2 rs1 f3 op) = rs1 := by
  refine Eq.trans (congrArg regOf (?_ : _ = regBits rs1)) (regOf_regBits rs1)
  ext i hi
  simp [wordS, place]
  interval_cases i <;> simp

@[simp] theorem wordS_rs2Of (imm : BitVec 12) (rs2 rs1 : RegIx) (f3 : BitVec 3) (op : BitVec 7) : rs2Of (wordS imm rs2 rs1 f3 op) = rs2 := by
  refine Eq.trans (congrArg regOf (?_ : _ = regBits rs2)) (regOf_regBits rs2)
  ext i hi
  simp [wordS, place]
  interval_cases i <;> simp

@[simp] theorem wordS_immSOf (imm : BitVec 12) (rs2 rs1 : RegIx) (f3 : BitVec 3) (op : BitVec 7) : immSOf (wordS imm rs2 rs1 f3 op) = imm := by
  ext i hi
  simp [immSOf, wordS, place]
  interval_cases i <;> simp

/-! ## B format -/

@[simp] theorem wordB_opcodeOf (off : BitVec 13) (rs2 rs1 : RegIx) (f3 : BitVec 3) (op : BitVec 7) : opcodeOf (wordB off rs2 rs1 f3 op) = op := by
  ext i hi
  simp [opcodeOf, wordB, place]
  interval_cases i <;> simp

@[simp] theorem wordB_funct3Of (off : BitVec 13) (rs2 rs1 : RegIx) (f3 : BitVec 3) (op : BitVec 7) : funct3Of (wordB off rs2 rs1 f3 op) = f3 := by
  ext i hi
  simp [funct3Of, wordB, place]
  interval_cases i <;> simp

@[simp] theorem wordB_rs1Of (off : BitVec 13) (rs2 rs1 : RegIx) (f3 : BitVec 3) (op : BitVec 7) : rs1Of (wordB off rs2 rs1 f3 op) = rs1 := by
  refine Eq.trans (congrArg regOf (?_ : _ = regBits rs1)) (regOf_regBits rs1)
  ext i hi
  simp [wordB, place]
  interval_cases i <;> simp

@[simp] theorem wordB_rs2Of (off : BitVec 13) (rs2 rs1 : RegIx) (f3 : BitVec 3) (op : BitVec 7) : rs2Of (wordB off rs2 rs1 f3 op) = rs2 := by
  refine Eq.trans (congrArg regOf (?_ : _ = regBits rs2)) (regOf_regBits rs2)
  ext i hi
  simp [wordB, place]
  interval_cases i <;> simp

/-! ## U format -/

@[simp] theorem wordU_opcodeOf (imm : BitVec 20) (rd : RegIx) (op : BitVec 7) : opcodeOf (wordU imm rd op) = op := by
  ext i hi
  simp [opcodeOf, wordU, place]
  interval_cases i <;> simp

@[simp] theorem wordU_rdOf (imm : BitVec 20) (rd : RegIx) (op : BitVec 7) : rdOf (wordU imm rd op) = rd := by
  refine Eq.trans (congrArg regOf (?_ : _ = regBits rd)) (regOf_regBits rd)
  ext i hi
  simp [wordU, place]
  interval_cases i <;> simp

@[simp] theorem wordU_immUOf (imm : BitVec 20) (rd : RegIx) (op : BitVec 7) : immUOf (wordU imm rd op) = imm := by
  ext i hi
  simp [immUOf, wordU, place]
  interval_cases i <;> simp

/-! ## J format -/

@[simp] theorem wordJ_opcodeOf (off : BitVec 21) (rd : RegIx) (op : BitVec 7) : opcodeOf (wordJ off rd op) = op := by
  ext i hi
  simp [opcodeOf, wordJ, place]
  interval_cases i <;> simp

@[simp] theorem wordJ_rdOf (off : BitVec 21) (rd : RegIx) (op : BitVec 7) : rdOf (wordJ off rd op) = rd := by
  refine Eq.trans (congrArg regOf (?_ : _ = regBits rd)) (regOf_regBits rd)
  ext i hi
  simp [wordJ, place]
  interval_cases i <;> simp

/-- A branch offset whose bit 0 is 0 is read back whole (R66). -/
theorem wordB_offBOf (off : BitVec 13) (rs2 rs1 : RegIx) (f3 : BitVec 3) (op : BitVec 7) (h : off.getLsbD 0 = false) :
    offBOf (wordB off rs2 rs1 f3 op) = off := by
  ext i hi
  simp [offBOf, wordB, place]
  interval_cases i
  · simpa using h
  all_goals simp

/-! The four slices of a jump offset in its word (R65). -/

theorem wordJ_slice31 (off : BitVec 21) (rd : RegIx) (op : BitVec 7) :
    (wordJ off rd op).extractLsb' 31 1 = off.extractLsb' 20 1 := by
  ext i hi
  simp [wordJ, place]
  interval_cases i
  simp

theorem wordJ_slice12 (off : BitVec 21) (rd : RegIx) (op : BitVec 7) :
    (wordJ off rd op).extractLsb' 12 8 = off.extractLsb' 12 8 := by
  ext i hi
  simp [wordJ, place]
  interval_cases i <;> simp

theorem wordJ_slice20 (off : BitVec 21) (rd : RegIx) (op : BitVec 7) :
    (wordJ off rd op).extractLsb' 20 1 = off.extractLsb' 11 1 := by
  ext i hi
  simp [wordJ, place]
  interval_cases i
  simp

theorem wordJ_slice21 (off : BitVec 21) (rd : RegIx) (op : BitVec 7) :
    (wordJ off rd op).extractLsb' 21 10 = off.extractLsb' 1 10 := by
  ext i hi
  simp [wordJ, place]
  interval_cases i <;> simp

/-- A jump offset whose bit 0 is 0 is read back whole (R65). -/
theorem wordJ_offJOf (off : BitVec 21) (rd : RegIx) (op : BitVec 7) (h : off.getLsbD 0 = false) :
    offJOf (wordJ off rd op) = off := by
  rw [offJOf, wordJ_slice31, wordJ_slice12, wordJ_slice20, wordJ_slice21]
  ext i hi
  simp only [place]
  interval_cases i
  · simpa using h
  all_goals simp

/-- The decoded offsets are even (R65, R66). -/
@[simp] theorem offJOf_even (w : Word) : (offJOf w)[0] = false := by simp [offJOf, place]

@[simp] theorem offBOf_even (w : Word) : (offBOf w)[0] = false := by simp [offBOf, place]

/-! ## A word is its fields put back in place (R61, R70) -/

/-- The field `w[lo+n-1:lo]`, put back at `lo`, holds the word's bits there and zeros elsewhere. -/
theorem place_extract (w : Word) (lo n i : Nat) (hi : i < 32) :
    (place 32 lo (w.extractLsb' lo n)).getLsbD i = (decide (lo ≤ i ∧ i < lo + n) && w.getLsbD i) := by
  simp only [place, BitVec.getLsbD_shiftLeft, BitVec.getLsbD_setWidth, BitVec.getLsbD_extractLsb']
  by_cases h : lo ≤ i
  · have e : lo + (i - lo) = i := by omega
    have e2 : decide (i - lo < n) = decide (lo ≤ i ∧ i < lo + n) := by simp only [decide_eq_decide]; omega
    rw [e, e2]
    simp [hi, show ¬ i < lo by omega, show i - lo < 32 by omega]
  · simp [h, show i < lo by omega]

theorem offJOf_slice20 (w : Word) : (offJOf w).extractLsb' 20 1 = w.extractLsb' 31 1 := by
  ext i hi
  simp [offJOf, place]
  interval_cases i
  simp

theorem offJOf_slice1 (w : Word) : (offJOf w).extractLsb' 1 10 = w.extractLsb' 21 10 := by
  ext i hi
  simp [offJOf, place]
  interval_cases i <;> simp

theorem offJOf_slice11 (w : Word) : (offJOf w).extractLsb' 11 1 = w.extractLsb' 20 1 := by
  ext i hi
  simp [offJOf, place]
  interval_cases i
  simp

theorem offJOf_slice12 (w : Word) : (offJOf w).extractLsb' 12 8 = w.extractLsb' 12 8 := by
  ext i hi
  simp [offJOf, place]
  interval_cases i <;> simp

theorem offBOf_slice12 (w : Word) : (offBOf w).extractLsb' 12 1 = w.extractLsb' 31 1 := by
  ext i hi
  simp [offBOf, place]
  interval_cases i
  simp

theorem offBOf_slice5 (w : Word) : (offBOf w).extractLsb' 5 6 = w.extractLsb' 25 6 := by
  ext i hi
  simp [offBOf, place]
  interval_cases i <;> simp

theorem offBOf_slice1 (w : Word) : (offBOf w).extractLsb' 1 4 = w.extractLsb' 8 4 := by
  ext i hi
  simp [offBOf, place]
  interval_cases i <;> simp

theorem offBOf_slice11 (w : Word) : (offBOf w).extractLsb' 11 1 = w.extractLsb' 7 1 := by
  ext i hi
  simp [offBOf, place]
  interval_cases i
  simp

theorem immSOf_slice5 (w : Word) : (immSOf w).extractLsb' 5 7 = w.extractLsb' 25 7 := by
  ext i hi
  simp [immSOf, place]
  interval_cases i <;> simp

theorem immSOf_slice0 (w : Word) : (immSOf w).extractLsb' 0 5 = w.extractLsb' 7 5 := by
  ext i hi
  simp [immSOf, place]
  interval_cases i <;> simp

theorem wordR_fields (w : Word) :
    wordR (funct7Of w) (rs2Of w) (rs1Of w) (funct3Of w) (rdOf w) (opcodeOf w) = w := by
  apply BitVec.eq_of_getLsbD_eq
  intro i hi
  simp only [wordR, rs2Of, rs1Of, rdOf, funct7Of, funct3Of, opcodeOf, regBits_regOf, BitVec.getLsbD_or, place_extract _ _ _ _ hi]
  cases w.getLsbD i
  · simp
  · simp; omega

theorem wordI_fields (w : Word) :
    wordI (immIOf w) (rs1Of w) (funct3Of w) (rdOf w) (opcodeOf w) = w := by
  apply BitVec.eq_of_getLsbD_eq
  intro i hi
  simp only [wordI, immIOf, rs1Of, rdOf, funct3Of, opcodeOf, regBits_regOf, BitVec.getLsbD_or, place_extract _ _ _ _ hi]
  cases w.getLsbD i
  · simp
  · simp; omega

theorem wordShift_fields (w : Word) :
    wordShift (funct7Of w) (shamtOf w) (rs1Of w) (funct3Of w) (rdOf w) (opcodeOf w) = w := by
  apply BitVec.eq_of_getLsbD_eq
  intro i hi
  simp only [wordShift, funct7Of, shamtOf, rs1Of, rdOf, funct3Of, opcodeOf, regBits_regOf, BitVec.getLsbD_or, place_extract _ _ _ _ hi]
  cases w.getLsbD i
  · simp
  · simp; omega

theorem wordCsrImm_fields (w : Word) :
    wordCsrImm (immIOf w) (uimmOf w) (funct3Of w) (rdOf w) (opcodeOf w) = w := by
  apply BitVec.eq_of_getLsbD_eq
  intro i hi
  simp only [wordCsrImm, immIOf, uimmOf, rdOf, funct3Of, opcodeOf, regBits_regOf, BitVec.getLsbD_or, place_extract _ _ _ _ hi]
  cases w.getLsbD i
  · simp
  · simp; omega

theorem wordS_fields (w : Word) :
    wordS (immSOf w) (rs2Of w) (rs1Of w) (funct3Of w) (opcodeOf w) = w := by
  apply BitVec.eq_of_getLsbD_eq
  intro i hi
  simp only [wordS, immSOf_slice5, immSOf_slice0, rs2Of, rs1Of, funct3Of, opcodeOf, regBits_regOf, BitVec.getLsbD_or, place_extract _ _ _ _ hi]
  cases w.getLsbD i
  · simp
  · simp; omega

theorem wordB_fields (w : Word) :
    wordB (offBOf w) (rs2Of w) (rs1Of w) (funct3Of w) (opcodeOf w) = w := by
  apply BitVec.eq_of_getLsbD_eq
  intro i hi
  simp only [wordB, offBOf_slice12, offBOf_slice5, offBOf_slice1, offBOf_slice11, rs2Of, rs1Of, funct3Of, opcodeOf, regBits_regOf, BitVec.getLsbD_or, place_extract _ _ _ _ hi]
  cases w.getLsbD i
  · simp
  · simp; omega

theorem wordU_fields (w : Word) :
    wordU (immUOf w) (rdOf w) (opcodeOf w) = w := by
  apply BitVec.eq_of_getLsbD_eq
  intro i hi
  simp only [wordU, immUOf, rdOf, opcodeOf, regBits_regOf, BitVec.getLsbD_or, place_extract _ _ _ _ hi]
  cases w.getLsbD i
  · simp
  · simp; omega

theorem wordJ_fields (w : Word) :
    wordJ (offJOf w) (rdOf w) (opcodeOf w) = w := by
  apply BitVec.eq_of_getLsbD_eq
  intro i hi
  simp only [wordJ, offJOf_slice20, offJOf_slice1, offJOf_slice11, offJOf_slice12, rdOf, opcodeOf, regBits_regOf, BitVec.getLsbD_or, place_extract _ _ _ _ hi]
  cases w.getLsbD i
  · simp
  · simp; omega

/-! ## Selection by secondary function code (R74, R75) -/

theorem selectAlt_strict (alt : Bool) (f7 : BitVec 7) :
    selectAlt .strict alt f7 =
      if f7 = 0b0000000#7 then some false else if alt = true ∧ f7 = 0b0100000#7 then some true else none := by
  simp [selectAlt]

/-- Under LENIENT only bit 5 of the code, `w[30]`, matters, and only where there is an alternative. -/
theorem selectAlt_lenient (alt : Bool) (f7 : BitVec 7) : selectAlt .lenient alt f7 = some (alt && f7.getLsbD 5) := by
  revert alt f7; decide

/-- Where STRICT selects, LENIENT selects the same (R10). -/
theorem selectAlt_lenient_of_strict (alt : Bool) (f7 : BitVec 7) (b : Bool) (h : selectAlt .strict alt f7 = some b) :
    selectAlt .lenient alt f7 = some b := by
  revert alt f7 b; decide

end Sys2Proof
end

