-- ==== Sys2Proof/Laws/Step.lean ====
section
/-! SUPPORT. What a step can do, said once: an instruction commits an effect, and nothing else. -/

namespace Sys2Proof.Machine

/-- Every instruction completes by committing an effect (R95, R220). -/
theorem exec_commits (i : Instr) (s : State) : ∃ e : Effect, exec i s = .next (s.commit e) := by
  cases i <;> exact ⟨_, rfl⟩

/-- A rejected word commits the empty effect (R73). -/
theorem execRejected_eq (r : Reject) (s : State) :
    execRejected r s = .next (s.commit { reg := none, pc := none }) := rfl

/-- Halted: no step (R90, R102). -/
theorem stepWith_of_fetch_none (p : DecodeMode) {s : State} (h : s.fetch = none) : stepWith p s = .fault .halted := by
  simp [stepWith, h]

/-- Running, and the word is a row of the table: the step is that instruction's, after the advance (R92, R93). -/
theorem stepWith_of_instr (p : DecodeMode) {s : State} {w : Word} {i : Instr} (h : s.fetch = some w)
    (hd : decodeWith p w = .instr i) : stepWith p s = exec i s.advance := by
  simp [stepWith, h, hd]

/-- Running, and the word is no row of it: the step is `unimplemented()` (R73). -/
theorem stepWith_of_rejected (p : DecodeMode) {s : State} {w : Word} {r : Reject} (h : s.fetch = some w)
    (hd : decodeWith p w = .rejected r) : stepWith p s = execRejected r s.advance := by
  simp [stepWith, h, hd]

/-- Everything a step that answers a next state can have done. -/
theorem stepWith_cases (p : DecodeMode) {s t : State} (h : stepWith p s = .next t) :
    ∃ w, s.fetch = some w ∧
      ((∃ i, decodeWith p w = .instr i ∧ exec i s.advance = .next t) ∨
       (∃ r, decodeWith p w = .rejected r ∧ t = s.advance.commit { reg := none, pc := none })) := by
  cases hf : s.fetch with
  | none => simp [stepWith_of_fetch_none p hf] at h
  | some w =>
    refine ⟨w, rfl, ?_⟩
    cases hd : decodeWith p w with
    | instr i => exact .inl ⟨i, rfl, by rw [← stepWith_of_instr p hf hd, h]⟩
    | rejected r =>
      rw [stepWith_of_rejected p hf hd, execRejected_eq] at h
      exact .inr ⟨r, rfl, by injection h with h; exact h.symm⟩

/-- A step is the advance and one committed effect. -/
theorem stepWith_commits (p : DecodeMode) {s t : State} (h : stepWith p s = .next t) :
    ∃ e : Effect, t = s.advance.commit e := by
  obtain ⟨w, -, ⟨i, -, hi⟩ | ⟨r, -, ht⟩⟩ := stepWith_cases p h
  · obtain ⟨e, he⟩ := exec_commits i s.advance
    rw [he] at hi
    exact ⟨e, by injection hi with hi; exact hi.symm⟩
  · exact ⟨_, ht⟩

end Sys2Proof.Machine
end

