-- ==== Sys2Proof/Laws/Host.lean ====
section
/-! SUPPORT. What a RUN and a move of core and host can do, said once. -/

namespace Sys2Proof.Machine

/-! ## Reports and steps -/

/-- The report of a Running core's step (R98). -/
theorem State.reportWith_of_fetch (p : DecodeMode) {s : State} {w : Word} (h : s.fetch = some w) :
    s.reportWith p = some { idx := s.pc, w := w, status := statusOfDecoded (decodeWith p w) } := by
  simp [State.reportWith, h]

/-- A Running core's step answers a next state and has a report (R98, R220). -/
theorem step_of_running {s : State} (h : s.running = true) : ∃ t r, step s = .next t ∧ s.report = some r := by
  have hf := (s.fetch_eq_some _).2 ⟨s.running_iff.1 h, rfl⟩
  cases hd : decodeWith Config.decodeMode (Memory.read s.store s.pc.toNat) with
  | instr i =>
    obtain ⟨e, he⟩ := exec_commits i s.advance
    exact ⟨_, _, (stepWith_of_instr _ hf hd).trans he, State.reportWith_of_fetch _ hf⟩
  | rejected r =>
    exact ⟨_, _, (stepWith_of_rejected _ hf hd).trans (execRejected_eq r s.advance), State.reportWith_of_fetch _ hf⟩

/-! ## RUN -/

/-- RUN started Halted returns at once (R100). -/
theorem State.runFor_of_halted (n : Nat) {s : State} (h : s.running = false) : State.runFor n s = .halted s [] := by
  cases n <;> simp [State.runFor, h]

/-- RUN with fuel takes one step and goes on (R100). -/
theorem State.runFor_succ (n : Nat) {s t : State} {r : Report} (h : s.running = true) (hs : step s = .next t)
    (hr : s.report = some r) :
    State.runFor (n + 1) s = match State.runFor n t with
      | .halted u rs => .halted u (r :: rs)
      | .outOfFuel u rs => .outOfFuel u (r :: rs)
      | .noStep u rs => .noStep u (r :: rs) := by
  cases hu : State.runFor n t <;> simp [State.runFor, h, hs, hr, hu]

/-! ## Moves -/

section
variable {s : State}

@[simp] theorem Session.move_reset (c : Nat) : Session.move (.reset c) { core := s, inRun := false } =
    (State.resetTo c).map fun t => (.nothing, { core := t, inRun := false }) := rfl
@[simp] theorem Session.move_load (ws : List Word) : Session.move (.load ws) { core := s, inRun := false } =
    some (.loaded (s.load ws).1, { core := (s.load ws).2, inRun := false }) := rfl
@[simp] theorem Session.move_readReg (r : RegIx) : Session.move (.readReg r) { core := s, inRun := false } =
    some (.value (s.readReg r), { core := s, inRun := false }) := rfl
@[simp] theorem Session.move_startRun : Session.move .startRun { core := s, inRun := false } =
    some (.nothing, { core := s, inRun := true }) := rfl
@[simp] theorem Session.move_step_idle : Session.move .step { core := s, inRun := false } = none := rfl
@[simp] theorem Session.move_returnRun_idle : Session.move .returnRun { core := s, inRun := false } = none := rfl
@[simp] theorem Session.move_reset_inRun (c : Nat) : Session.move (.reset c) { core := s, inRun := true } = none := rfl
@[simp] theorem Session.move_load_inRun (ws : List Word) : Session.move (.load ws) { core := s, inRun := true } = none := rfl
@[simp] theorem Session.move_readReg_inRun (r : RegIx) : Session.move (.readReg r) { core := s, inRun := true } = none := rfl
@[simp] theorem Session.move_startRun_inRun : Session.move .startRun { core := s, inRun := true } = none := rfl

/-- During a RUN a Running core's only move is its step. -/
theorem Session.move_step {t : State} {r : Report} (hs : step s = .next t) (hr : s.report = some r) :
    Session.move .step { core := s, inRun := true } = some (.report r, { core := t, inRun := true }) := by
  simp [Session.move, hs, hr]

theorem Session.move_step_of_halted (h : s.running = false) : Session.move .step { core := s, inRun := true } = none := by
  have : step s = .fault .halted :=
    stepWith_of_fetch_none _ ((State.fetch_eq_none s).2 (by simpa [State.running] using h))
  simp [Session.move, this]

/-- RUN returns exactly when Halted (R100, R243). -/
theorem Session.move_returnRun : Session.move .returnRun { core := s, inRun := true } =
    if s.running then none else some (.nothing, { core := s, inRun := false }) := rfl

end

/-- Everything a move can do to the core: a fresh reset, a load, nothing, or one step. -/
theorem Session.move_core {x y : Session} {m : HostMove} {a : Answer} (h : x.move m = some (a, y)) :
    (∃ c, State.resetTo c = some y.core) ∨ (∃ ws, y.core = (x.core.load ws).2) ∨ y.core = x.core ∨
      step x.core = .next y.core := by
  obtain ⟨s, b⟩ := x
  cases b
  · cases m with
    | reset c =>
      simp only [Session.move_reset, Option.map_eq_some_iff, Prod.mk.injEq] at h
      obtain ⟨t, ht, -, rfl⟩ := h
      exact .inl ⟨c, ht⟩
    | load ws => cases h; exact .inr (.inl ⟨ws, rfl⟩)
    | readReg r => cases h; exact .inr (.inr (.inl rfl))
    | startRun => cases h; exact .inr (.inr (.inl rfl))
    | step => cases h
    | returnRun => cases h
  · cases m with
    | step =>
      cases hr : s.running
      · simp [Session.move_step_of_halted hr] at h
      · obtain ⟨t, r, hs, hr⟩ := step_of_running hr
        rw [Session.move_step hs hr] at h
        cases h
        exact .inr (.inr (.inr hs))
    | returnRun =>
      rw [Session.move_returnRun] at h
      split at h
      · cases h
      · cases h; exact .inr (.inr (.inl rfl))
    | reset c => cases h
    | load ws => cases h
    | readReg r => cases h
    | startRun => cases h

end Sys2Proof.Machine
end

