-- ==== Sys2Proof/Laws/PerInstr.lean ====
section
/-! SUPPORT. One fact about every instruction as syntax, an instruction at a time: the opcode of its word (30_encoding.md
R71; 46_unimplemented.md R190 to R205). -/

namespace Sys2Proof.Laws

/-- The opcode R71 (or R201 to R205) gives the instruction. -/
def opcodeOfInstr : Instr → BitVec 7
  | .lui _ _ => 0b0110111#7
  | .auipc _ _ => 0b0010111#7
  | .jal _ _ => 0b1101111#7
  | .jalr _ _ _ => 0b1100111#7
  | .addi _ _ _ => 0b0010011#7
  | .slti _ _ _ => 0b0010011#7
  | .sltiu _ _ _ => 0b0010011#7
  | .xori _ _ _ => 0b0010011#7
  | .ori _ _ _ => 0b0010011#7
  | .andi _ _ _ => 0b0010011#7
  | .slli _ _ _ => 0b0010011#7
  | .srli _ _ _ => 0b0010011#7
  | .srai _ _ _ => 0b0010011#7
  | .add _ _ _ => 0b0110011#7
  | .sub _ _ _ => 0b0110011#7
  | .sll _ _ _ => 0b0110011#7
  | .slt _ _ _ => 0b0110011#7
  | .sltu _ _ _ => 0b0110011#7
  | .xor _ _ _ => 0b0110011#7
  | .srl _ _ _ => 0b0110011#7
  | .sra _ _ _ => 0b0110011#7
  | .or _ _ _ => 0b0110011#7
  | .and _ _ _ => 0b0110011#7
  | .beq _ _ _ => 0b1100011#7
  | .bne _ _ _ => 0b1100011#7
  | .blt _ _ _ => 0b1100011#7
  | .bge _ _ _ => 0b1100011#7
  | .bltu _ _ _ => 0b1100011#7
  | .bgeu _ _ _ => 0b1100011#7
  | .lb _ _ _ => 0b0000011#7
  | .lh _ _ _ => 0b0000011#7
  | .lw _ _ _ => 0b0000011#7
  | .lbu _ _ _ => 0b0000011#7
  | .lhu _ _ _ => 0b0000011#7
  | .sb _ _ _ => 0b0100011#7
  | .sh _ _ _ => 0b0100011#7
  | .sw _ _ _ => 0b0100011#7
  | .fence _ _ _ => 0b0001111#7
  | .fenceI _ _ _ => 0b0001111#7
  | .ecall => 0b1110011#7
  | .ebreak => 0b1110011#7
  | .csrrw _ _ _ => 0b1110011#7
  | .csrrs _ _ _ => 0b1110011#7
  | .csrrc _ _ _ => 0b1110011#7
  | .csrrwi _ _ _ => 0b1110011#7
  | .csrrsi _ _ _ => 0b1110011#7
  | .csrrci _ _ _ => 0b1110011#7
  | .mret => 0b1110011#7
  | .sret => 0b1110011#7
  | .wfi => 0b1110011#7
  | .sfenceVma _ _ => 0b1110011#7

/-- The word of the instruction carries its opcode in `w[6:0]`. -/
def EncodedOpcode.Statement (i : Instr) : Prop := opcodeOf (encode i) = opcodeOfInstr i

theorem EncodedOpcode.lui (rd : RegIx) (imm : BitVec 20) : EncodedOpcode.Statement (.lui rd imm) := wordU_opcodeOf ..
theorem EncodedOpcode.auipc (rd : RegIx) (imm : BitVec 20) : EncodedOpcode.Statement (.auipc rd imm) := wordU_opcodeOf ..
theorem EncodedOpcode.jal (rd : RegIx) (off : BitVec 21) : EncodedOpcode.Statement (.jal rd off) := wordJ_opcodeOf ..
theorem EncodedOpcode.jalr (rd : RegIx) (rs1 : RegIx) (imm : BitVec 12) : EncodedOpcode.Statement (.jalr rd rs1 imm) := wordI_opcodeOf ..
theorem EncodedOpcode.addi (rd : RegIx) (rs1 : RegIx) (imm : BitVec 12) : EncodedOpcode.Statement (.addi rd rs1 imm) := wordI_opcodeOf ..
theorem EncodedOpcode.slti (rd : RegIx) (rs1 : RegIx) (imm : BitVec 12) : EncodedOpcode.Statement (.slti rd rs1 imm) := wordI_opcodeOf ..
theorem EncodedOpcode.sltiu (rd : RegIx) (rs1 : RegIx) (imm : BitVec 12) : EncodedOpcode.Statement (.sltiu rd rs1 imm) := wordI_opcodeOf ..
theorem EncodedOpcode.xori (rd : RegIx) (rs1 : RegIx) (imm : BitVec 12) : EncodedOpcode.Statement (.xori rd rs1 imm) := wordI_opcodeOf ..
theorem EncodedOpcode.ori (rd : RegIx) (rs1 : RegIx) (imm : BitVec 12) : EncodedOpcode.Statement (.ori rd rs1 imm) := wordI_opcodeOf ..
theorem EncodedOpcode.andi (rd : RegIx) (rs1 : RegIx) (imm : BitVec 12) : EncodedOpcode.Statement (.andi rd rs1 imm) := wordI_opcodeOf ..
theorem EncodedOpcode.slli (rd : RegIx) (rs1 : RegIx) (shamt : BitVec 5) : EncodedOpcode.Statement (.slli rd rs1 shamt) := wordShift_opcodeOf ..
theorem EncodedOpcode.srli (rd : RegIx) (rs1 : RegIx) (shamt : BitVec 5) : EncodedOpcode.Statement (.srli rd rs1 shamt) := wordShift_opcodeOf ..
theorem EncodedOpcode.srai (rd : RegIx) (rs1 : RegIx) (shamt : BitVec 5) : EncodedOpcode.Statement (.srai rd rs1 shamt) := wordShift_opcodeOf ..
theorem EncodedOpcode.add (rd : RegIx) (rs1 : RegIx) (rs2 : RegIx) : EncodedOpcode.Statement (.add rd rs1 rs2) := wordR_opcodeOf ..
theorem EncodedOpcode.sub (rd : RegIx) (rs1 : RegIx) (rs2 : RegIx) : EncodedOpcode.Statement (.sub rd rs1 rs2) := wordR_opcodeOf ..
theorem EncodedOpcode.sll (rd : RegIx) (rs1 : RegIx) (rs2 : RegIx) : EncodedOpcode.Statement (.sll rd rs1 rs2) := wordR_opcodeOf ..
theorem EncodedOpcode.slt (rd : RegIx) (rs1 : RegIx) (rs2 : RegIx) : EncodedOpcode.Statement (.slt rd rs1 rs2) := wordR_opcodeOf ..
theorem EncodedOpcode.sltu (rd : RegIx) (rs1 : RegIx) (rs2 : RegIx) : EncodedOpcode.Statement (.sltu rd rs1 rs2) := wordR_opcodeOf ..
theorem EncodedOpcode.xor (rd : RegIx) (rs1 : RegIx) (rs2 : RegIx) : EncodedOpcode.Statement (.xor rd rs1 rs2) := wordR_opcodeOf ..
theorem EncodedOpcode.srl (rd : RegIx) (rs1 : RegIx) (rs2 : RegIx) : EncodedOpcode.Statement (.srl rd rs1 rs2) := wordR_opcodeOf ..
theorem EncodedOpcode.sra (rd : RegIx) (rs1 : RegIx) (rs2 : RegIx) : EncodedOpcode.Statement (.sra rd rs1 rs2) := wordR_opcodeOf ..
theorem EncodedOpcode.or (rd : RegIx) (rs1 : RegIx) (rs2 : RegIx) : EncodedOpcode.Statement (.or rd rs1 rs2) := wordR_opcodeOf ..
theorem EncodedOpcode.and (rd : RegIx) (rs1 : RegIx) (rs2 : RegIx) : EncodedOpcode.Statement (.and rd rs1 rs2) := wordR_opcodeOf ..
theorem EncodedOpcode.beq (rs1 : RegIx) (rs2 : RegIx) (off : BitVec 13) : EncodedOpcode.Statement (.beq rs1 rs2 off) := wordB_opcodeOf ..
theorem EncodedOpcode.bne (rs1 : RegIx) (rs2 : RegIx) (off : BitVec 13) : EncodedOpcode.Statement (.bne rs1 rs2 off) := wordB_opcodeOf ..
theorem EncodedOpcode.blt (rs1 : RegIx) (rs2 : RegIx) (off : BitVec 13) : EncodedOpcode.Statement (.blt rs1 rs2 off) := wordB_opcodeOf ..
theorem EncodedOpcode.bge (rs1 : RegIx) (rs2 : RegIx) (off : BitVec 13) : EncodedOpcode.Statement (.bge rs1 rs2 off) := wordB_opcodeOf ..
theorem EncodedOpcode.bltu (rs1 : RegIx) (rs2 : RegIx) (off : BitVec 13) : EncodedOpcode.Statement (.bltu rs1 rs2 off) := wordB_opcodeOf ..
theorem EncodedOpcode.bgeu (rs1 : RegIx) (rs2 : RegIx) (off : BitVec 13) : EncodedOpcode.Statement (.bgeu rs1 rs2 off) := wordB_opcodeOf ..
theorem EncodedOpcode.lb (rd : RegIx) (rs1 : RegIx) (imm : BitVec 12) : EncodedOpcode.Statement (.lb rd rs1 imm) := wordI_opcodeOf ..
theorem EncodedOpcode.lh (rd : RegIx) (rs1 : RegIx) (imm : BitVec 12) : EncodedOpcode.Statement (.lh rd rs1 imm) := wordI_opcodeOf ..
theorem EncodedOpcode.lw (rd : RegIx) (rs1 : RegIx) (imm : BitVec 12) : EncodedOpcode.Statement (.lw rd rs1 imm) := wordI_opcodeOf ..
theorem EncodedOpcode.lbu (rd : RegIx) (rs1 : RegIx) (imm : BitVec 12) : EncodedOpcode.Statement (.lbu rd rs1 imm) := wordI_opcodeOf ..
theorem EncodedOpcode.lhu (rd : RegIx) (rs1 : RegIx) (imm : BitVec 12) : EncodedOpcode.Statement (.lhu rd rs1 imm) := wordI_opcodeOf ..
theorem EncodedOpcode.sb (rs1 : RegIx) (rs2 : RegIx) (imm : BitVec 12) : EncodedOpcode.Statement (.sb rs1 rs2 imm) := wordS_opcodeOf ..
theorem EncodedOpcode.sh (rs1 : RegIx) (rs2 : RegIx) (imm : BitVec 12) : EncodedOpcode.Statement (.sh rs1 rs2 imm) := wordS_opcodeOf ..
theorem EncodedOpcode.sw (rs1 : RegIx) (rs2 : RegIx) (imm : BitVec 12) : EncodedOpcode.Statement (.sw rs1 rs2 imm) := wordS_opcodeOf ..
theorem EncodedOpcode.fence (rd : RegIx) (rs1 : RegIx) (imm : BitVec 12) : EncodedOpcode.Statement (.fence rd rs1 imm) := wordI_opcodeOf ..
theorem EncodedOpcode.fenceI (rd : RegIx) (rs1 : RegIx) (imm : BitVec 12) : EncodedOpcode.Statement (.fenceI rd rs1 imm) := wordI_opcodeOf ..
theorem EncodedOpcode.ecall : EncodedOpcode.Statement .ecall := by unfold EncodedOpcode.Statement; decide
theorem EncodedOpcode.ebreak : EncodedOpcode.Statement .ebreak := by unfold EncodedOpcode.Statement; decide
theorem EncodedOpcode.csrrw (rd : RegIx) (rs1 : RegIx) (csr : BitVec 12) : EncodedOpcode.Statement (.csrrw rd rs1 csr) := wordI_opcodeOf ..
theorem EncodedOpcode.csrrs (rd : RegIx) (rs1 : RegIx) (csr : BitVec 12) : EncodedOpcode.Statement (.csrrs rd rs1 csr) := wordI_opcodeOf ..
theorem EncodedOpcode.csrrc (rd : RegIx) (rs1 : RegIx) (csr : BitVec 12) : EncodedOpcode.Statement (.csrrc rd rs1 csr) := wordI_opcodeOf ..
theorem EncodedOpcode.csrrwi (rd : RegIx) (uimm : BitVec 5) (csr : BitVec 12) : EncodedOpcode.Statement (.csrrwi rd uimm csr) := wordCsrImm_opcodeOf ..
theorem EncodedOpcode.csrrsi (rd : RegIx) (uimm : BitVec 5) (csr : BitVec 12) : EncodedOpcode.Statement (.csrrsi rd uimm csr) := wordCsrImm_opcodeOf ..
theorem EncodedOpcode.csrrci (rd : RegIx) (uimm : BitVec 5) (csr : BitVec 12) : EncodedOpcode.Statement (.csrrci rd uimm csr) := wordCsrImm_opcodeOf ..
theorem EncodedOpcode.mret : EncodedOpcode.Statement .mret := by unfold EncodedOpcode.Statement; decide
theorem EncodedOpcode.sret : EncodedOpcode.Statement .sret := by unfold EncodedOpcode.Statement; decide
theorem EncodedOpcode.wfi : EncodedOpcode.Statement .wfi := by unfold EncodedOpcode.Statement; decide
theorem EncodedOpcode.sfenceVma (rs1 : RegIx) (rs2 : RegIx) : EncodedOpcode.Statement (.sfenceVma rs1 rs2) := wordR_opcodeOf ..

end Sys2Proof.Laws
end

