-- ==== Sys2Proof/Tests/Slice0.lean ====
section
/-! SUPPORT. Tests, each with its source (spec/95_test_vectors.md or the rule's own example), and for every statement with
hypotheses a witness that meets them. `checks` compares the whole state a step leaves with the state the vector gives. -/

namespace Sys2Proof.Tests

open Sys2Proof.Machine

/-! ## Helpers -/

/-- The state with the word at index `idx` and pc there, capacity `c`, and the listed registers. -/
def stateAt (c idx : Nat) (regs : List (RegIx × Word)) (w : Word) : State :=
  { regs := regs.foldl (fun v e => v.set e.1.val e.2) (Vector.replicate 32 0)
    pc := BitVec.ofNat 32 idx, store := Memory.write [] idx w, capacity := c }

/-- A vector of spec/95_test_vectors.md: from `stateAt`, one step leaves exactly the registers of `after` changed and pc at
`pc`, the rest as it was, and reports the status. -/
def checks (p : DecodeMode) (idx : Nat) (w : Word) (before after : List (RegIx × Word)) (pc : Word) (st : Status)
    (c : Nat := 1024) : Bool :=
  (match stepWith p (stateAt c idx before w) with
    | .next t => decide (t = { stateAt c idx (before ++ after) w with pc := pc })
    | _ => false) &&
    decide ((stateAt c idx before w).reportWith p = some { idx := BitVec.ofNat 32 idx, w := w, status := st })

/-- The same under both values of P_DECODE. -/
def checksBoth (idx : Nat) (w : Word) (before after : List (RegIx × Word)) (pc : Word) (st : Status) (c : Nat := 1024) : Bool :=
  checks .strict idx w before after pc st c && checks .lenient idx w before after pc st c

/-- The word decodes to the instruction under both values of P_DECODE, and is its encoding. -/
def codes (w : Word) (i : Instr) : Bool :=
  decide (decodeWith .strict w = .instr i) && decide (decodeWith .lenient w = .instr i) && decide (encode i = w)

/-- The word is rejected so under both values of P_DECODE. -/
def rejects (w : Word) (r : Reject) : Bool :=
  decide (decodeWith .strict w = .rejected r) && decide (decodeWith .lenient w = .rejected r)

/-! ## WellFormed: one ill-formed term for each check -/

theorem test_wf_jal_odd : (Instr.jal 1 3#21).wf = false := by decide
theorem test_wf_beq_odd : (Instr.beq 1 2 1#13).wf = false := by decide
theorem test_wf_bne_odd : (Instr.bne 1 2 1#13).wf = false := by decide
theorem test_wf_blt_odd : (Instr.blt 1 2 1#13).wf = false := by decide
theorem test_wf_bge_odd : (Instr.bge 1 2 1#13).wf = false := by decide
theorem test_wf_bltu_odd : (Instr.bltu 1 2 1#13).wf = false := by decide
theorem test_wf_bgeu_odd : (Instr.bgeu 1 2 4095#13).wf = false := by decide

/-! ## Decoding: a word written out from the spec for every constructor -/

/-- words of 41_upper_immediate.md, 42_jumps.md and 95 VU, VJ. -/
theorem test_decode_upper_jump : (
    codes 0x123452B7#32 (.lui 5 0x12345#20) &&
    codes 0xFFFFF317#32 (.auipc 6 0xFFFFF#20) &&
    codes 0xFE9FF0EF#32 (.jal 1 (-24#21)) &&
    codes 0x7FFFF0EF#32 (.jal 1 1048574#21) &&
    codes 0x800000EF#32 (.jal 1 (-1048576#21)) &&
    codes 0xFD4100E7#32 (.jalr 1 2 (-44#12))) = true := by decide

/-- 95 VI. -/
theorem test_decode_op_imm : (
    codes 0x80008093#32 (.addi 1 1 (-2048#12)) &&
    codes 0xFFF12093#32 (.slti 1 2 (-1#12)) &&
    codes 0x00113093#32 (.sltiu 1 2 1#12) &&
    codes 0x00414093#32 (.xori 1 2 4#12) &&
    codes 0x0F016093#32 (.ori 1 2 0x0F0#12) &&
    codes 0x0FF17093#32 (.andi 1 2 0x0FF#12) &&
    codes 0x01F11093#32 (.slli 1 2 31#5) &&
    codes 0x00415093#32 (.srli 1 2 4#5) &&
    codes 0x40415093#32 (.srai 1 2 4#5)) = true := by decide

/-- 95 VR. -/
theorem test_decode_op : (
    codes 0x002081B3#32 (.add 3 1 2) &&
    codes 0x402081B3#32 (.sub 3 1 2) &&
    codes 0x002091B3#32 (.sll 3 1 2) &&
    codes 0x0020A1B3#32 (.slt 3 1 2) &&
    codes 0x0020B1B3#32 (.sltu 3 1 2) &&
    codes 0x0020C1B3#32 (.xor 3 1 2) &&
    codes 0x0020D1B3#32 (.srl 3 1 2) &&
    codes 0x4020D1B3#32 (.sra 3 1 2) &&
    codes 0x0020E1B3#32 (.or 3 1 2) &&
    codes 0x0020F1B3#32 (.and 3 1 2)) = true := by decide

/-- 95 VB. -/
theorem test_decode_branch : (
    codes 0x7E000FE3#32 (.beq 0 0 4094#13) &&
    codes 0x80000063#32 (.beq 0 0 (-4096#13)) &&
    codes 0xFE209EE3#32 (.bne 1 2 (-4#13)) &&
    codes 0x0020C663#32 (.blt 1 2 12#13) &&
    codes 0x0020D663#32 (.bge 1 2 12#13) &&
    codes 0x0020E663#32 (.bltu 1 2 12#13) &&
    codes 0x0020F663#32 (.bgeu 1 2 12#13)) = true := by decide

/-- 95 VX1 to VX8. -/
theorem test_decode_load_store : (
    codes 0x00000383#32 (.lb 7 0 0#12) &&
    codes 0x00001383#32 (.lh 7 0 0#12) &&
    codes 0x00002383#32 (.lw 7 0 0#12) &&
    codes 0x00004383#32 (.lbu 7 0 0#12) &&
    codes 0x00005383#32 (.lhu 7 0 0#12) &&
    codes 0x00500023#32 (.sb 0 5 0#12) &&
    codes 0x00501023#32 (.sh 0 5 0#12) &&
    codes 0x00502023#32 (.sw 0 5 0#12)) = true := by decide

/-- 95 VX12 to VX19 and 46_unimplemented.md R201 to R205; the other CSR words and SFENCE.VMA are R204's and R205's selector values written out around csr 0x300, x1, x2. -/
theorem test_decode_system : (
    codes 0x0FF0000F#32 (.fence 0 0 0x0FF#12) &&
    codes 0x0000100F#32 (.fenceI 0 0 0#12) &&
    codes 0x00000073#32 (.ecall) &&
    codes 0x00100073#32 (.ebreak) &&
    codes 0x300110F3#32 (.csrrw 1 2 0x300#12) &&
    codes 0xC00020F3#32 (.csrrs 1 0 0xC00#12) &&
    codes 0x300130F3#32 (.csrrc 1 2 0x300#12) &&
    codes 0x300150F3#32 (.csrrwi 1 2#5 0x300#12) &&
    codes 0x300160F3#32 (.csrrsi 1 2#5 0x300#12) &&
    codes 0x300170F3#32 (.csrrci 1 2#5 0x300#12) &&
    codes 0x30200073#32 (.mret) &&
    codes 0x10200073#32 (.sret) &&
    codes 0x10500073#32 (.wfi) &&
    codes 0x12208073#32 (.sfenceVma 1 2)) = true := by decide

/-- Words that name no row, under either value of P_DECODE: 95 VX9 to VX11, VX20, VB22, VB23; a STORE word with funct3 011
(R198); SYSTEM funct3 100 and an ECALL word with rd = 1 (R199). -/
theorem test_decode_rejects : (
    rejects 0x00003383#32 .loadFunct3 && rejects 0x00000000#32 .unrecognizedOpcode &&
    rejects 0xFFFFFFFF#32 .unrecognizedOpcode && rejects 0x00010001#32 .unrecognizedOpcode &&
    rejects 0x00002463#32 .branchFunct3 && rejects 0x00003463#32 .branchFunct3 &&
    rejects 0x00503023#32 .storeFunct3 && rejects 0x00004073#32 .unrecognizedOpcode &&
    rejects 0x000000F3#32 .unrecognizedOpcode) = true := by decide

/-- Non-canonical words under STRICT (R74, R161; 95 VS1, VS2, VS5). -/
theorem test_decode_rejects_strict :
    decodeWith .strict 0x000110E7#32 = .rejected .jalrFunct3 ∧ decodeWith .strict 0x022081B3#32 = .rejected .opFunct7 ∧
      decodeWith .strict 0xC040D113#32 = .rejected .shiftFunct7 := by decide

/-! ## One step: spec/95_test_vectors.md section 2 -/

/-- 95 VU1. -/
theorem test_step_lui : checksBoth 0 0x123452B7#32 [] [(5, 0x12345000#32)] 0x1#32 .executed = true := by decide

/-- 95 VU3. -/
theorem test_step_lui_x0 : checksBoth 0 0x00001037#32 [] [] 0x1#32 .executed = true := by decide

/-- 95 VU4. -/
theorem test_step_auipc : checksBoth 1 0x00000317#32 [] [(6, 0x2#32)] 0x2#32 .executed = true := by decide

/-- 95 VU6. -/
theorem test_step_auipc_wraps : checksBoth 3 0xFFFFF317#32 [] [(6, 0xFFFFF004#32)] 0x4#32 .executed = true := by decide

/-- 95 VJ3. -/
theorem test_step_jal_rounds_down : checksBoth 5 0xFFFFF0EF#32 [] [(1, 0x18#32)] 0x4#32 .executed = true := by decide

/-- 95 VJ4. -/
theorem test_step_jal_below_zero : checksBoth 5 0xFE9FF0EF#32 [] [(1, 0x18#32)] 0xFFFFFFFF#32 .executed = true := by decide

/-- 95 VJ10. -/
theorem test_step_jalr_drops_low_bits : checksBoth 5 0x002100E7#32 [(2, 0x28#32)] [(1, 0x18#32)] 0xA#32 .executed = true := by decide

/-- 95 VJ13. -/
theorem test_step_jalr_rd_is_rs1 : checksBoth 5 0x000080E7#32 [(1, 0x28#32)] [(1, 0x18#32)] 0xA#32 .executed = true := by decide

/-- 95 VI4. -/
theorem test_step_addi_sign_extends : checksBoth 0 0x7FF10093#32 [(2, 0xFFFFFFFF#32)] [(1, 0x7FE#32)] 0x1#32 .executed = true := by decide

/-- 95 VI3. -/
theorem test_step_addi_rd_is_rs1 : checksBoth 0 0x80008093#32 [(1, 0x0#32)] [(1, 0xFFFFF800#32)] 0x1#32 .executed = true := by decide

/-- 95 VI6. -/
theorem test_step_slti : checksBoth 0 0x00112093#32 [(2, 0xFFFFFFFF#32)] [(1, 0x1#32)] 0x1#32 .executed = true := by decide

/-- 95 VI8. -/
theorem test_step_slti_equal : checksBoth 0 0x00512093#32 [(2, 0x5#32)] [(1, 0x0#32)] 0x1#32 .executed = true := by decide

/-- 95 VI9. -/
theorem test_step_sltiu : checksBoth 0 0xFFF13093#32 [(2, 0x1#32)] [(1, 0x1#32)] 0x1#32 .executed = true := by decide

/-- 95 VI11. -/
theorem test_step_sltiu_big : checksBoth 0 0x00113093#32 [(2, 0xFFFFFFFF#32)] [(1, 0x0#32)] 0x1#32 .executed = true := by decide

/-- 95 VI12. -/
theorem test_step_xori : checksBoth 0 0xFFF14093#32 [(2, 0x0F0F0F0F#32)] [(1, 0xF0F0F0F0#32)] 0x1#32 .executed = true := by decide

/-- 95 VI15. -/
theorem test_step_ori : checksBoth 0 0x80016093#32 [(2, 0x1#32)] [(1, 0xFFFFF801#32)] 0x1#32 .executed = true := by decide

/-- 95 VI16. -/
theorem test_step_andi : checksBoth 0 0x0FF17093#32 [(2, 0x12345678#32)] [(1, 0x78#32)] 0x1#32 .executed = true := by decide

/-- 95 VI18. -/
theorem test_step_slli : checksBoth 0 0x01F11093#32 [(2, 0x3#32)] [(1, 0x80000000#32)] 0x1#32 .executed = true := by decide

/-- 95 VI21. -/
theorem test_step_srli : checksBoth 0 0x00415093#32 [(2, 0xF0000000#32)] [(1, 0x0F000000#32)] 0x1#32 .executed = true := by decide

/-- 95 VI23. -/
theorem test_step_srai_negative : checksBoth 0 0x40415093#32 [(2, 0xF0000000#32)] [(1, 0xFF000000#32)] 0x1#32 .executed = true := by decide

/-- 95 VI24. -/
theorem test_step_srai_positive : checksBoth 0 0x40415093#32 [(2, 0x70000000#32)] [(1, 0x07000000#32)] 0x1#32 .executed = true := by decide

/-- 95 VR2. -/
theorem test_step_add : checksBoth 0 0x002081B3#32 [(1, 0xFFFFFFFF#32), (2, 0x1#32)] [(3, 0x0#32)] 0x1#32 .executed = true := by decide

/-- 95 VR22. -/
theorem test_step_add_x0 : checksBoth 0 0x00208033#32 [(1, 0x5#32), (2, 0x6#32)] [] 0x1#32 .executed = true := by decide

/-- 95 VR3. -/
theorem test_step_sub : checksBoth 0 0x402081B3#32 [(1, 0x0#32), (2, 0x1#32)] [(3, 0xFFFFFFFF#32)] 0x1#32 .executed = true := by decide

/-- 95 VR8. -/
theorem test_step_sll_masks : checksBoth 0 0x002091B3#32 [(1, 0x1#32), (2, 0xFFFFFFE1#32)] [(3, 0x2#32)] 0x1#32 .executed = true := by decide

/-- 95 VR9. -/
theorem test_step_slt : checksBoth 0 0x0020A1B3#32 [(1, 0xFFFFFFFF#32), (2, 0x1#32)] [(3, 0x1#32)] 0x1#32 .executed = true := by decide

/-- 95 VR10. -/
theorem test_step_slt_extremes : checksBoth 0 0x0020A1B3#32 [(1, 0x7FFFFFFF#32), (2, 0x80000000#32)] [(3, 0x0#32)] 0x1#32 .executed = true := by decide

/-- 95 VR12. -/
theorem test_step_sltu : checksBoth 0 0x0020B1B3#32 [(1, 0xFFFFFFFF#32), (2, 0x1#32)] [(3, 0x0#32)] 0x1#32 .executed = true := by decide

/-- 95 VR14. -/
theorem test_step_xor : checksBoth 0 0x0020C1B3#32 [(1, 0xF#32), (2, 0x3#32)] [(3, 0xC#32)] 0x1#32 .executed = true := by decide

/-- 95 VR16. -/
theorem test_step_srl_masks : checksBoth 0 0x0020D1B3#32 [(1, 0x80000000#32), (2, 0x24#32)] [(3, 0x08000000#32)] 0x1#32 .executed = true := by decide

/-- 95 VR18. -/
theorem test_step_sra_masks : checksBoth 0 0x4020D1B3#32 [(1, 0x80000000#32), (2, 0x24#32)] [(3, 0xF8000000#32)] 0x1#32 .executed = true := by decide

/-- 95 VR20. -/
theorem test_step_or : checksBoth 0 0x0020E1B3#32 [(1, 0xF0F0F0F0#32), (2, 0x0F0F0F0F#32)] [(3, 0xFFFFFFFF#32)] 0x1#32 .executed = true := by decide

/-- 95 VR21. -/
theorem test_step_and : checksBoth 0 0x0020F1B3#32 [(1, 0xF0F0F0F0#32), (2, 0xFF00FF00#32)] [(3, 0xF000F000#32)] 0x1#32 .executed = true := by decide

/-- 95 VB5. -/
theorem test_step_beq_rounds_down : checksBoth 5 0xFE000FE3#32 [] [] 0x4#32 .executed = true := by decide

/-- 95 VB2. -/
theorem test_step_beq_not_taken : checksBoth 5 0x00208463#32 [(1, 0x3#32), (2, 0x4#32)] [] 0x6#32 .executed = true := by decide

/-- 95 VB9. -/
theorem test_step_bne_taken : checksBoth 5 0xFE209EE3#32 [(1, 0x1#32), (2, 0x2#32)] [] 0x4#32 .executed = true := by decide

/-- 95 VB10. -/
theorem test_step_bne_not_taken : checksBoth 5 0xFE209EE3#32 [(1, 0x2#32), (2, 0x2#32)] [] 0x6#32 .executed = true := by decide

/-- 95 VB11. -/
theorem test_step_blt_taken : checksBoth 5 0x0020C663#32 [(1, 0xFFFFFFFF#32), (2, 0x1#32)] [] 0x8#32 .executed = true := by decide

/-- 95 VB13. -/
theorem test_step_blt_equal : checksBoth 5 0x0010C663#32 [(1, 0x7#32)] [] 0x6#32 .executed = true := by decide

/-- 95 VB15. -/
theorem test_step_bge_equal : checksBoth 5 0x0010D663#32 [(1, 0x7#32)] [] 0x8#32 .executed = true := by decide

/-- 95 VB16. -/
theorem test_step_bge_not_taken : checksBoth 5 0x0020D663#32 [(1, 0x80000000#32), (2, 0x0#32)] [] 0x6#32 .executed = true := by decide

/-- 95 VB17. -/
theorem test_step_bltu_taken : checksBoth 5 0x0020E663#32 [(1, 0x1#32), (2, 0xFFFFFFFF#32)] [] 0x8#32 .executed = true := by decide

/-- 95 VB18. -/
theorem test_step_bltu_not_taken : checksBoth 5 0x0020E663#32 [(1, 0xFFFFFFFF#32), (2, 0x1#32)] [] 0x6#32 .executed = true := by decide

/-- 95 VB19. -/
theorem test_step_bgeu_taken : checksBoth 5 0x0020F663#32 [(1, 0xFFFFFFFF#32), (2, 0x1#32)] [] 0x8#32 .executed = true := by decide

/-- 95 VB21. -/
theorem test_step_bgeu_not_taken : checksBoth 5 0x0020F663#32 [(1, 0x0#32), (2, 0x1#32)] [] 0x6#32 .executed = true := by decide

/-- 95 VB8: the lowest branch offset, in a store of 4096 words. -/
theorem test_step_beq_lowest_offset : checksBoth 2000 0x80000063#32 [] [] 976#32 .executed 4096 = true := by decide

/-- 95 VX1. -/
theorem test_step_lb : checksBoth 3 0x00000383#32 [(7, 0x9#32)] [] 4#32 .unimplemented = true := by decide

/-- 95 VX2. -/
theorem test_step_lh : checksBoth 3 0x00001383#32 [(7, 0x9#32)] [] 4#32 .unimplemented = true := by decide

/-- 95 VX3. -/
theorem test_step_lw : checksBoth 3 0x00002383#32 [(7, 0x9#32)] [] 4#32 .unimplemented = true := by decide

/-- 95 VX4. -/
theorem test_step_lbu : checksBoth 3 0x00004383#32 [(7, 0x9#32)] [] 4#32 .unimplemented = true := by decide

/-- 95 VX5. -/
theorem test_step_lhu : checksBoth 3 0x00005383#32 [(7, 0x9#32)] [] 4#32 .unimplemented = true := by decide

/-- 95 VX6. -/
theorem test_step_sb : checksBoth 3 0x00500023#32 [(5, 0x55#32)] [] 4#32 .unimplemented = true := by decide

/-- 95 VX7. -/
theorem test_step_sh : checksBoth 3 0x00501023#32 [(5, 0x55#32)] [] 4#32 .unimplemented = true := by decide

/-- 95 VX8. -/
theorem test_step_sw : checksBoth 3 0x00502023#32 [(5, 0x55#32)] [] 4#32 .unimplemented = true := by decide

/-- 95 VX10. -/
theorem test_step_zero_word : checksBoth 3 0x00000000#32 [] [] 4#32 .unimplemented = true := by decide

/-- 95 VX12. -/
theorem test_step_fence : checksBoth 3 0x0FF0000F#32 [] [] 4#32 .unimplemented = true := by decide

/-- 95 VX13. -/
theorem test_step_fenceI : checksBoth 3 0x0000100F#32 [] [] 4#32 .unimplemented = true := by decide

/-- 95 VX14. -/
theorem test_step_ecall : checksBoth 3 0x00000073#32 [] [] 4#32 .unimplemented = true := by decide

/-- 95 VX15. -/
theorem test_step_ebreak : checksBoth 3 0x00100073#32 [] [] 4#32 .unimplemented = true := by decide

/-- 95 VX16. -/
theorem test_step_csrrw : checksBoth 3 0x300110F3#32 [(1, 0x4#32), (2, 0x8#32)] [] 4#32 .unimplemented = true := by decide

/-- 95 VX17. -/
theorem test_step_csrrs : checksBoth 3 0xC00020F3#32 [(1, 0x4#32)] [] 4#32 .unimplemented = true := by decide

/-- 95 VX18. -/
theorem test_step_mret : checksBoth 3 0x30200073#32 [] [] 4#32 .unimplemented = true := by decide

/-- 95 VX19. -/
theorem test_step_wfi : checksBoth 3 0x10500073#32 [] [] 4#32 .unimplemented = true := by decide

/-- R204. -/
theorem test_step_csrrc : checksBoth 3 0x300130F3#32 [(1, 0x4#32), (2, 0x8#32)] [] 4#32 .unimplemented = true := by decide

/-- R204. -/
theorem test_step_csrrwi : checksBoth 3 0x300150F3#32 [(1, 0x4#32)] [] 4#32 .unimplemented = true := by decide

/-- R204. -/
theorem test_step_csrrsi : checksBoth 3 0x300160F3#32 [(1, 0x4#32)] [] 4#32 .unimplemented = true := by decide

/-- R204. -/
theorem test_step_csrrci : checksBoth 3 0x300170F3#32 [(1, 0x4#32)] [] 4#32 .unimplemented = true := by decide

/-- R205. -/
theorem test_step_sret : checksBoth 3 0x10200073#32 [] [] 4#32 .unimplemented = true := by decide

/-- R205. -/
theorem test_step_sfence_vma : checksBoth 3 0x12208073#32 [(1, 0x4#32), (2, 0x8#32)] [] 4#32 .unimplemented = true := by decide

/-! ## STRICT and LENIENT on non-canonical words: spec/95_test_vectors.md section 3 -/

/-- 95 VS1. -/
theorem test_mode_jalr_funct3 : (checks .strict 5 0x000110E7#32 [(2, 0x28#32)] [] 0x6#32 .unimplemented &&
    checks .lenient 5 0x000110E7#32 [(2, 0x28#32)] [(1, 0x18#32)] 0xA#32 .executed) = true := by decide

/-- 95 VS2. -/
theorem test_mode_add_funct7 : (checks .strict 0 0x022081B3#32 [(1, 0x5#32), (2, 0x6#32)] [] 0x1#32 .unimplemented &&
    checks .lenient 0 0x022081B3#32 [(1, 0x5#32), (2, 0x6#32)] [(3, 0xB#32)] 0x1#32 .executed) = true := by decide

/-- 95 VS3. -/
theorem test_mode_xor_funct7 : (checks .strict 0 0x4020C1B3#32 [(1, 0x1#32), (2, 0x2#32)] [] 0x1#32 .unimplemented &&
    checks .lenient 0 0x4020C1B3#32 [(1, 0x1#32), (2, 0x2#32)] [(3, 0x3#32)] 0x1#32 .executed) = true := by decide

/-- 95 VS4. -/
theorem test_mode_slli_funct7 : (checks .strict 0 0x40309113#32 [(1, 0x1#32)] [] 0x1#32 .unimplemented &&
    checks .lenient 0 0x40309113#32 [(1, 0x1#32)] [(2, 0x8#32)] 0x1#32 .executed) = true := by decide

/-- 95 VS5. -/
theorem test_mode_srai_funct7 : (checks .strict 0 0xC040D113#32 [(1, 0x80000000#32)] [] 0x1#32 .unimplemented &&
    checks .lenient 0 0xC040D113#32 [(1, 0x80000000#32)] [(2, 0xF8000000#32)] 0x1#32 .executed) = true := by decide

/-- 95 VS6. -/
theorem test_mode_sub_funct7 : (checks .strict 0 0x422081B3#32 [(1, 0x5#32), (2, 0x6#32)] [] 0x1#32 .unimplemented &&
    checks .lenient 0 0x422081B3#32 [(1, 0x5#32), (2, 0x6#32)] [(3, 0xFFFFFFFF#32)] 0x1#32 .executed) = true := by decide

/-- 95 VS7. -/
theorem test_mode_srl_funct7 : (checks .strict 0 0x0420D1B3#32 [(1, 0x80000000#32), (2, 0x4#32)] [] 0x1#32 .unimplemented &&
    checks .lenient 0 0x0420D1B3#32 [(1, 0x80000000#32), (2, 0x4#32)] [(3, 0x08000000#32)] 0x1#32 .executed) = true := by decide

/-! ## Halting, the host's operations, and the placing of a word -/

/-- R101: the step at `idx = C - 1` leaves `pc = C`, and the Halted core has no step (R102). -/
theorem test_halts_past_last_index : checksBoth 2 0x00000013#32 [] [] 3#32 .executed 3 = true ∧
    stepWith .strict (stateAt 3 3 [] 0) = .fault .halted ∧ (stateAt 3 3 [] 0).reportWith .strict = none :=
  ⟨by decide, rfl, rfl⟩

/-- 95 H1, H5: RESET(1024) is Running at 0, RESET(0) is Halted; a capacity above 2^30 is refused (R8). -/
theorem test_reset : State.reset.running = true ∧ State.reset.pc = 0 ∧ State.reset.readReg 31 = 0 ∧
    (State.resetTo 0).map State.running = some false ∧ State.resetTo (2 ^ 30 + 1) = none := by decide

/-- 95 H2: LOAD of three words into two is ProgramTooLarge and changes nothing. -/
theorem test_load_too_large :
    State.load [0x00500093#32, 0x00600113#32, 0x00208133#32] (State.construct 2) = (.programTooLarge, State.construct 2) := by
  decide

/-- 95 H3 and H7 (its first words): LOAD of C words is accepted; a later LOAD overwrites the leading words only. -/
theorem test_load_overwrites :
    (State.load [7#32] (State.load [1#32, 2#32, 3#32] (State.construct 3)).2).1 = .ok ∧
      (State.load [7#32] (State.load [1#32, 2#32, 3#32] (State.construct 3)).2).2.store = [(0, 7#32), (1, 2#32), (2, 3#32)] := by
  decide

/-- R37: a word written as 0 is not listed, so equal stores are equal data. -/
theorem test_store_canonical : Memory.write (Memory.write [] 4 9#32) 4 0 = [] ∧
    Memory.write (Memory.write [] 4 9#32) 2 1#32 = Memory.write (Memory.write [] 2 1#32) 4 9#32 := by decide

/-- 95 H5, H6: RUN started Halted takes no step and returns at once. -/
theorem test_run_halted : State.runFor 0 (State.construct 0) = .halted (State.construct 0) [] := by decide

/-- R245, 93 item 11: during a RUN there is no host operation, whether the core is Running or Halted; between RUNs no step. -/
theorem test_no_host_move_in_run :
    Session.move (.load [7#32]) { core := stateAt 4 2 [] 0, inRun := true } = none ∧
      Session.move (.load []) { core := stateAt 4 4 [] 0, inRun := true } = none ∧
      Session.move (.reset 4) { core := stateAt 4 2 [] 0, inRun := true } = none ∧
      Session.move (.readReg 1) { core := stateAt 4 2 [] 0, inRun := true } = none ∧
      Session.move .returnRun { core := stateAt 4 2 [] 0, inRun := true } = none ∧
      Session.move .step { core := stateAt 4 2 [] 0, inRun := false } = none := ⟨rfl, rfl, rfl, rfl, rfl, rfl⟩

/-- 95 H5: RESET(0), RUN returns at once, LOAD of a word is ProgramTooLarge. -/
theorem test_moves_empty_core :
    Session.moves [.reset 0, .startRun, .returnRun, .load [0x00000013#32], .readReg 0] { core := State.reset, inRun := false } =
      some ([.nothing, .nothing, .nothing, .loaded .programTooLarge, .value 0],
        { core := State.construct 0, inRun := false }) := by decide

/-- The word placed is the word the step runs, as the first instruction after reset (log entry 13): ADDI x1, x0, 5 (R130). -/
theorem test_with_fetch_word : step (State.reset.withFetchWord 32 0x00500093) =
    .next { State.reset with regs := State.reset.regs.set 1 5, pc := 1, store := [(0, 0x00500093#32)] } := by rfl

/-- Also from a Halted state, and with bits above nbits dropped. -/
theorem test_with_fetch_word_halted :
    ((stateAt 3 3 [] 0).withFetchWord 7 0xF13).fetch = some 0x00000013#32 := by decide

/-- A table word of 32 bits decodes whole: ADD x3, x1, x2 (95 VR1). -/
theorem test_decode_table_word : decodeTableWord 32 0x002081B3 = some (.add 3 1 2) := by rfl

/-- spec/opcode_table.json has 51 rows. -/
theorem test_row_count : opcodeRows.length = 51 := by decide

/-! ## Witnesses: states and operands that meet the hypotheses of each statement that has any -/

/-- ADDI x1, x0, 5 at index 0 of a store of C words. -/
def addiAt (c : Nat) : State := stateAt c 0 [] 0x00500093#32

/-- What its step leaves. -/
def addiDone (c : Nat) : State := { stateAt c 0 [(1, 5#32)] 0x00500093#32 with pc := 1 }

/-- Opcode and funct3 of a word. -/
def selects (w : Word) (op : BitVec 7) (f3 : BitVec 3) : Bool := decide (opcodeOf w = op) && decide (funct3Of w = f3)

theorem witness_ResetZeroFillsEverything : 0 ≤ 2 ^ 30 ∧ 2 ^ 30 ≤ 2 ^ 30 := by decide

theorem witness_ResetMeetsInvariant :
    State.resetTo 0 = some (State.construct 0) ∧ State.resetTo (2 ^ 30) = some (State.construct (2 ^ 30)) := by decide

theorem witness_StepKeepsInvariant : (addiAt 1).Inv ∧ step (addiAt 1) = .next (addiDone 1) := ⟨by decide, rfl⟩

theorem witness_LoadKeepsInvariant : State.reset.Inv ∧ (addiDone 1).Inv := by decide

/-- RESET(1), LOAD of ADDI x1, x0, 5, RUN, its one step, its return. -/
theorem witness_ReachableStatesMeetInvariant :
    Reachable { core := addiAt 1, inRun := false } ∧ Reachable { core := addiDone 1, inRun := true } ∧
      Reachable { core := addiDone 1, inRun := false } :=
  have h0 : Reachable { core := State.construct 1, inRun := false } := .reset (c := 1) rfl
  have h1 : Reachable { core := addiAt 1, inRun := false } := .move (m := .load [0x00500093#32]) h0 rfl
  have h2 : Reachable { core := addiAt 1, inRun := true } := .move (m := .startRun) h1 rfl
  have h3 : Reachable { core := addiDone 1, inRun := true } := .move (m := .step) h2 rfl
  ⟨h1, h3, .move (m := .returnRun) h3 rfl⟩

theorem witness_CanonicalStoresThatReadAlikeAreEqual :
    Memory.wf [(0, 1#32), (3, 2#32)] = true ∧
      ∀ i, Memory.read [(0, 1#32), (3, 2#32)] i = Memory.read [(0, 1#32), (3, 2#32)] i := ⟨by decide, fun _ => rfl⟩

theorem witness_DecodeOfEncodeIsTheInstruction :
    (Instr.jal 31 (-1048576#21)).wf = true ∧ (Instr.jal 0 1048574#21).wf = true ∧ (Instr.bgeu 31 0 4094#13).wf = true ∧
      (Instr.csrrwi 31 31#5 0xFFF#12).wf = true := by decide

theorem witness_EncodeOfStrictDecodeIsTheWord :
    decodeWith .strict 0x800000EF#32 = .instr (.jal 1 (-1048576#21)) ∧
      decodeWith .strict 0x4020D1B3#32 = .instr (.sra 3 1 2) := by decide

theorem witness_DecodedInstructionsAreWellFormed :
    decodeWith .lenient 0x7FFFF0EF#32 = .instr (.jal 1 1048574#21) ∧
      decodeWith .lenient 0xC040D113#32 = .instr (.srai 2 1 4#5) := by decide

theorem witness_OpcodeRowsNeverOverlap : ∃ r ∈ opcodeRows,
    r.matchesWord .strict 0x12208073#32 = true ∧ r.matchesWord .lenient 0x12208073#32 = true ∧ r.mnemonic = "SFENCE.VMA" := by
  decide

/-- Every kind of canonical word, and one word of each group that is not canonical. -/
theorem witness_CanonicalWordsDecodeAlike :
    strictCanonical 0x402081B3#32 ∧ strictCanonical 0x4020D1B3#32 ∧ strictCanonical 0x01F11093#32 ∧
      strictCanonical 0x40415093#32 ∧ strictCanonical 0x000100E7#32 ∧ strictCanonical 0#32 ∧
      ¬ strictCanonical 0x4020C1B3#32 ∧ ¬ strictCanonical 0x40309113#32 ∧ ¬ strictCanonical 0xC040D113#32 ∧
      ¬ strictCanonical 0x000110E7#32 := by
  refine ⟨?_, ?_, ?_, ?_, ?_, ?_, ?_, ?_, ?_, ?_⟩ <;> unfold strictCanonical <;> decide

theorem witness_LenientExecutesEveryAluAndJalrWord :
    opcodeOf 0x422081B3#32 = 0b0110011#7 ∧ opcodeOf 0xC040D113#32 = 0b0010011#7 ∧ opcodeOf 0x000110E7#32 = 0b1100111#7 := by
  decide

theorem witness_LuiWritesUpperImmediate : opcodeOf 0xFFFFF2B7#32 = 0b0110111#7 := by decide

theorem witness_AuipcAddsToAdvancedWordIndex : opcodeOf 0xFFFFF317#32 = 0b0010111#7 := by decide

theorem witness_JalLinksAndJumps : opcodeOf 0x800000EF#32 = 0b1101111#7 := by decide

theorem witness_JalrLinksAndJumpsToRegister : selects 0xFD4100E7#32 0b1100111#7 0b000#3 = true ∧
    opcodeOf 0x000110E7#32 = 0b1100111#7 ∧ funct3Of 0x000110E7#32 ≠ 0b000#3 := by decide

theorem witness_ImmediateArithmeticAndLogic :
    (selects 0x80008093#32 0b0010011#7 0b000#3 && selects 0x00113093#32 0b0010011#7 0b011#3 &&
      selects 0x00414093#32 0b0010011#7 0b100#3 && selects 0x0F016093#32 0b0010011#7 0b110#3 &&
      selects 0x0FF17093#32 0b0010011#7 0b111#3) = true := by decide

theorem witness_SignedSetLessThan :
    (selects 0xFFF12093#32 0b0010011#7 0b010#3 && selects 0x0020A1B3#32 0b0110011#7 0b010#3) = true ∧
      funct7Of 0x0020A1B3#32 = 0b0000000#7 := by decide

/-- Words that meet the STRICT condition, and words that meet the LENIENT one only. -/
theorem witness_ImmediateShifts :
    (selects 0x01F11093#32 0b0010011#7 0b001#3 && selects 0x00415093#32 0b0010011#7 0b101#3 &&
      selects 0x40415093#32 0b0010011#7 0b101#3 && selects 0x40309113#32 0b0010011#7 0b001#3 &&
      selects 0xC040D113#32 0b0010011#7 0b101#3) = true ∧
      funct7Of 0x01F11093#32 = 0b0000000#7 ∧ funct7Of 0x00415093#32 = 0b0000000#7 ∧ funct7Of 0x40415093#32 = 0b0100000#7 ∧
      funct7Of 0xC040D113#32 = 0b1100000#7 ∧ (0xC040D113#32).getLsbD 30 = true ∧ (0x00415093#32).getLsbD 30 = false := by decide

theorem witness_RegisterArithmeticAndLogic :
    (selects 0x002081B3#32 0b0110011#7 0b000#3 && selects 0x402081B3#32 0b0110011#7 0b000#3 &&
      selects 0x0020B1B3#32 0b0110011#7 0b011#3 && selects 0x0020C1B3#32 0b0110011#7 0b100#3 &&
      selects 0x0020E1B3#32 0b0110011#7 0b110#3 && selects 0x0020F1B3#32 0b0110011#7 0b111#3 &&
      selects 0x022081B3#32 0b0110011#7 0b000#3 && selects 0x422081B3#32 0b0110011#7 0b000#3) = true ∧
      funct7Of 0x002081B3#32 = 0b0000000#7 ∧ funct7Of 0x402081B3#32 = 0b0100000#7 ∧
      (0x022081B3#32).getLsbD 30 = false ∧ (0x422081B3#32).getLsbD 30 = true := by decide

theorem witness_RegisterShifts :
    (selects 0x002091B3#32 0b0110011#7 0b001#3 && selects 0x0020D1B3#32 0b0110011#7 0b101#3 &&
      selects 0x4020D1B3#32 0b0110011#7 0b101#3 && selects 0x0420D1B3#32 0b0110011#7 0b101#3) = true ∧
      funct7Of 0x0020D1B3#32 = 0b0000000#7 ∧ funct7Of 0x4020D1B3#32 = 0b0100000#7 ∧
      (0x0420D1B3#32).getLsbD 30 = false ∧ (0x4020D1B3#32).getLsbD 30 = true := by decide

/-- Each comparison holds and fails somewhere, at the sign boundary and at equality. -/
theorem witness_BranchesCompareAndMovePc :
    let s := stateAt 4 0 [(1, 0x80000000#32), (2, 0x7FFFFFFF#32)] 0
    s.readReg 1 = s.readReg 1 ∧ s.readReg 1 ≠ s.readReg 2 ∧
      (s.readReg 1).toInt < (s.readReg 2).toInt ∧ ¬ (s.readReg 1).toInt < (s.readReg 1).toInt ∧
      (s.readReg 1).toInt ≤ (s.readReg 1).toInt ∧ ¬ (s.readReg 2).toInt ≤ (s.readReg 1).toInt ∧
      (s.readReg 2).toNat < (s.readReg 1).toNat ∧ ¬ (s.readReg 1).toNat < (s.readReg 1).toNat ∧
      (s.readReg 1).toNat ≤ (s.readReg 1).toNat ∧ ¬ (s.readReg 1).toNat ≤ (s.readReg 2).toNat ∧
      (selects 0xFE000FE3#32 0b1100011#7 0b000#3 && selects 0xFE209EE3#32 0b1100011#7 0b001#3 &&
        selects 0x0020C663#32 0b1100011#7 0b100#3 && selects 0x0020D663#32 0b1100011#7 0b101#3 &&
        selects 0x0020E663#32 0b1100011#7 0b110#3 && selects 0x0020F663#32 0b1100011#7 0b111#3) = true := by decide

theorem witness_LoadsAndStoresAreNoOps :
    (selects 0x00000383#32 0b0000011#7 0b000#3 && selects 0x00001383#32 0b0000011#7 0b001#3 &&
      selects 0x00002383#32 0b0000011#7 0b010#3 && selects 0x00004383#32 0b0000011#7 0b100#3 &&
      selects 0x00005383#32 0b0000011#7 0b101#3 && selects 0x00500023#32 0b0100011#7 0b000#3 &&
      selects 0x00501023#32 0b0100011#7 0b001#3 && selects 0x00502023#32 0b0100011#7 0b010#3) = true := by decide

theorem witness_SystemAndFenceWordsAreNoOps :
    (selects 0x0FF0000F#32 0b0001111#7 0b000#3 && selects 0x0000100F#32 0b0001111#7 0b001#3 &&
      selects 0x300110F3#32 0b1110011#7 0b001#3 && selects 0xC00020F3#32 0b1110011#7 0b010#3 &&
      selects 0x300130F3#32 0b1110011#7 0b011#3 && selects 0x300150F3#32 0b1110011#7 0b101#3 &&
      selects 0x300160F3#32 0b1110011#7 0b110#3 && selects 0x300170F3#32 0b1110011#7 0b111#3 &&
      selects 0x12208073#32 0b1110011#7 0b000#3) = true ∧ funct7Of 0x12208073#32 = 0b0001001#7 ∧ rdOf 0x12208073#32 = 0 := by
  decide

/-- A word that decodes and one that is rejected, at the first and at the last index of the store. -/
theorem witness_StepRunsTheDecodedInstruction :
    (addiAt 1).pc.toNat < (addiAt 1).capacity ∧
      decodeWith .strict (Memory.read (addiAt 1).store (addiAt 1).pc.toNat) = .instr (.addi 1 0 5#12) ∧
      (stateAt 4 3 [] 0).pc.toNat < (stateAt 4 3 [] 0).capacity ∧
      decodeWith .lenient (Memory.read (stateAt 4 3 [] 0).store (stateAt 4 3 [] 0).pc.toNat) =
        .rejected .unrecognizedOpcode := by decide

theorem witness_RunningCoreAlwaysCompletesItsStep :
    (stateAt 4 3 [] 0).pc.toNat < (stateAt 4 3 [] 0).capacity ∧ (stateAt 4 4 [] 0).capacity ≤ (stateAt 4 4 [] 0).pc.toNat := by
  decide

theorem witness_HaltedIsAbsorbing :
    (stateAt 4 4 [] 0).capacity ≤ (stateAt 4 4 [] 0).pc.toNat ∧ State.resetTo 4 = some (State.construct 4) := by decide

/-- A fetched word of each kind R73 lists. -/
theorem witness_UnimplementedWordsAreNoOps :
    (stateAt 4 3 [] 0x00002383#32).fetch = some 0x00002383#32 ∧ unimplementedWord .lenient 0x00002383#32 ∧
      (stateAt 4 3 [] 0x00502023#32).fetch = some 0x00502023#32 ∧ unimplementedWord .strict 0x00502023#32 ∧
      (stateAt 4 3 [] 0).fetch = some 0#32 ∧ unimplementedWord .strict 0#32 ∧
      (stateAt 4 3 [] 0x00003463#32).fetch = some 0x00003463#32 ∧ unimplementedWord .lenient 0x00003463#32 ∧
      (stateAt 4 3 [] 0x022081B3#32).fetch = some 0x022081B3#32 ∧ unimplementedWord .strict 0x022081B3#32 := by
  refine ⟨?_, ?_, ?_, ?_, ?_, ?_, ?_, ?_, ?_, ?_⟩ <;> first | decide | (unfold unimplementedWord strictCanonical; decide)

/-- Both statuses, and a Halted core. -/
theorem witness_EveryStepReportsItsStatus :
    (addiAt 1).fetch = some 0x00500093#32 ∧ ¬ unimplementedWord .strict 0x00500093#32 ∧
      ¬ unimplementedWord .lenient 0x022081B3#32 ∧ unimplementedWord .strict 0x022081B3#32 ∧
      (stateAt 4 4 [] 0).fetch = none := by
  refine ⟨?_, ?_, ?_, ?_, ?_⟩ <;> first | decide | (unfold unimplementedWord strictCanonical; decide)

/-- A tail of zero words, of two words and of none. -/
theorem witness_ZeroTailRunsToHalt :
    (stateAt 4 2 [] 0).capacity ≤ 2 ^ 30 ∧ (stateAt 4 2 [] 0).pc.toNat ≤ (stateAt 4 2 [] 0).capacity ∧
      (∀ i, (stateAt 4 2 [] 0).pc.toNat ≤ i → i < (stateAt 4 2 [] 0).capacity → Memory.read (stateAt 4 2 [] 0).store i = 0) ∧
      (stateAt 4 4 [] 0).pc.toNat ≤ (stateAt 4 4 [] 0).capacity :=
  ⟨by decide, by decide, fun _ _ _ => rfl, by decide⟩

/-- A step that writes x0's own cell and puts it back to zero: ADD x0, x1, x2 (95 VR22). -/
theorem witness_X0IsZeroAfterEveryStep :
    ∃ t, stepWith .strict (stateAt 4 0 [(1, 5#32), (2, 6#32)] 0x00208033#32) = .next t := ⟨_, rfl⟩

theorem witness_StepWritesOnlyTheRdRegister :
    (addiAt 1).fetch = some 0x00500093#32 ∧ stepWith .strict (addiAt 1) = .next (addiDone 1) ∧
      (2 : RegIx) ≠ rdOf 0x00500093#32 := ⟨by decide, rfl, by decide⟩

/-- A step, a run that ends and a run that is out of fuel. -/
theorem witness_CapacityIsFixedAndOnlyLoadWritesTheStore :
    stepWith .lenient (addiAt 1) = .next (addiDone 1) ∧
      State.runFor 0 (State.construct 0) = .halted (State.construct 0) [] ∧
      State.runFor 0 (addiAt 1) = .outOfFuel (addiAt 1) [] := ⟨rfl, by decide, by decide⟩

/-- A step for each of the four ways pc can go: ADDI, JAL, JALR, BEQ. -/
theorem witness_PcGoesToTheNextWordOrATarget :
    (addiAt 1).fetch = some 0x00500093#32 ∧ stepWith .strict (addiAt 1) = .next (addiDone 1) ∧
      (stateAt 8 5 [] 0xFE9FF0EF#32).fetch = some 0xFE9FF0EF#32 ∧
      (∃ t, stepWith .strict (stateAt 8 5 [] 0xFE9FF0EF#32) = .next t) ∧
      (stateAt 8 5 [] 0x00000067#32).fetch = some 0x00000067#32 ∧
      (∃ t, stepWith .strict (stateAt 8 5 [] 0x00000067#32) = .next t) ∧
      (stateAt 8 5 [] 0xFE000FE3#32).fetch = some 0xFE000FE3#32 ∧
      (∃ t, stepWith .strict (stateAt 8 5 [] 0xFE000FE3#32) = .next t) :=
  ⟨by decide, rfl, by decide, ⟨_, rfl⟩, by decide, ⟨_, rfl⟩, by decide, ⟨_, rfl⟩⟩

/-- JAL below index 0 (95 VJ4), BEQ to index 4 (VB5), BEQ not taken (VB2), each in a store of 2^30 words. -/
theorem witness_TargetsBelowZeroHalt :
    (2 ^ 30 ≤ 2 ^ 30) ∧
      (stateAt (2 ^ 30) 5 [] 0xFE9FF0EF#32).fetch = some 0xFE9FF0EF#32 ∧ opcodeOf 0xFE9FF0EF#32 = 0b1101111#7 ∧
      (∃ t, stepWith .strict (stateAt (2 ^ 30) 5 [] 0xFE9FF0EF#32) = .next t) ∧
      (stateAt (2 ^ 30) 5 [] 0xFE000FE3#32).fetch = some 0xFE000FE3#32 ∧ opcodeOf 0xFE000FE3#32 = 0b1100011#7 ∧
      (∃ t, stepWith .strict (stateAt (2 ^ 30) 5 [] 0xFE000FE3#32) = .next t) ∧
      (stateAt (2 ^ 30) 5 [(1, 3#32)] 0x00208463#32).fetch = some 0x00208463#32 ∧ opcodeOf 0x00208463#32 = 0b1100011#7 ∧
      (∃ t, stepWith .strict (stateAt (2 ^ 30) 5 [(1, 3#32)] 0x00208463#32) = .next t) :=
  ⟨by decide, by decide, by decide, ⟨_, rfl⟩, by decide, by decide, ⟨_, rfl⟩, by decide, by decide, ⟨_, rfl⟩⟩

/-- pc' at its largest admitted value, 2^30 - 1. -/
theorem witness_ReturnThroughLinkComesBack :
    ∃ t v : State, (1 : RegIx) ≠ 0 ∧ (stateAt (2 ^ 30) (2 ^ 30 - 1) [] 0).pc.toNat < 2 ^ 30 ∧
      exec (.jal 1 8#21) (stateAt (2 ^ 30) (2 ^ 30 - 1) [] 0) = .next t ∧ t.readReg 1 = t.readReg 1 ∧
      exec (.jalr 0 1 0#12) t = .next v := ⟨_, _, by decide, by decide, rfl, rfl, rfl⟩

/-- Another store with the same word at pc. -/
theorem witness_StepReadsOnlyTheFetchedWord :
    Memory.read [(0, 0x00500093#32), (3, 7#32)] (addiAt 4).pc.toNat = Memory.read (addiAt 4).store (addiAt 4).pc.toNat ∧
      stepWith .strict (addiAt 4) = .next (addiDone 4) := ⟨by decide, rfl⟩

/-- Two states that differ in x3 only, which ADD x3, x1, x2 writes and x4, which it does not. -/
theorem witness_StepReadsOnlyItsSourceRegisters :
    let s := stateAt 4 0 [(1, 5#32), (2, 6#32)] 0x002081B3#32
    let s' := stateAt 4 0 [(1, 5#32), (2, 6#32), (3, 9#32), (4, 9#32)] 0x002081B3#32
    s.fetch = some 0x002081B3#32 ∧ s'.pc = s.pc ∧ s'.capacity = s.capacity ∧ s'.store = s.store ∧
      s'.readReg (rs1Of 0x002081B3#32) = s.readReg (rs1Of 0x002081B3#32) ∧
      s'.readReg (rs2Of 0x002081B3#32) = s.readReg (rs2Of 0x002081B3#32) ∧
      (∃ t, stepWith .strict s = .next t) ∧ (∃ t', stepWith .strict s' = .next t') :=
  ⟨by decide, by decide, by decide, by decide, by decide, by decide, ⟨_, rfl⟩, ⟨_, rfl⟩⟩

/-- A program of C words and one of C + 1. -/
theorem witness_LoadWritesTheProgramOrNothing :
    Memory.wf (addiAt 1).store = true ∧ [7#32].length ≤ (addiAt 1).capacity ∧ (addiAt 1).capacity < [7#32, 8#32].length := by
  decide

/-- The same run with no fuel and with fuel to spare. -/
theorem witness_RunResultDoesNotDependOnFuel :
    State.runFor 0 (State.construct 0) = .halted (State.construct 0) [] ∧
      State.runFor 1 (State.construct 0) = .halted (State.construct 0) [] := by decide

/-- A RUN in progress that is Running, one that is Halted (pc = C), and no RUN; a capacity at its bound. -/
theorem witness_HostActsOnlyBetweenRuns :
    (addiAt 1).pc.toNat < (addiAt 1).capacity ∧ (addiDone 1).capacity ≤ (addiDone 1).pc.toNat ∧
      Session.move .step { core := addiAt 1, inRun := true } =
        some (.report { idx := 0, w := 0x00500093#32, status := .executed }, { core := addiDone 1, inRun := true }) ∧
      Session.move .returnRun { core := addiDone 1, inRun := true } = some (.nothing, { core := addiDone 1, inRun := false }) ∧
      Session.move (.reset (2 ^ 30)) { core := addiAt 1, inRun := false } =
        some (.nothing, { core := State.construct (2 ^ 30), inRun := false }) := ⟨by decide, by decide, rfl, rfl, rfl⟩

/-- Each move of R246's table answers in some session: RESET, LOAD accepted and rejected, READREG of x0 and x1, RUN's start,
step and return. -/
theorem witness_MovesDoWhatTheHostTableSays :
    (∃ e, Session.move (.reset 0) { core := addiDone 1, inRun := false } = some e) ∧
      (∃ e, Session.move (.load [7#32]) { core := addiDone 1, inRun := false } = some e) ∧
      (∃ e, Session.move (.load [7#32, 8#32]) { core := addiDone 1, inRun := false } = some e) ∧
      (∃ e, Session.move (.readReg 0) { core := addiDone 1, inRun := false } = some e) ∧
      (∃ e, Session.move (.readReg 1) { core := addiDone 1, inRun := false } = some e) ∧
      (∃ e, Session.move .startRun { core := addiDone 1, inRun := false } = some e) ∧
      (∃ e, Session.move .step { core := addiAt 1, inRun := true } = some e) ∧
      (∃ e, Session.move .returnRun { core := addiDone 1, inRun := true } = some e) :=
  ⟨⟨_, rfl⟩, ⟨_, rfl⟩, ⟨_, rfl⟩, ⟨_, rfl⟩, ⟨_, rfl⟩, ⟨_, rfl⟩, ⟨_, rfl⟩, ⟨_, rfl⟩⟩

/-- A RUN that ends at once, and one of one step. -/
theorem witness_RunIsItsStepsAndReturn :
    State.runFor 0 (State.construct 0) = .halted (State.construct 0) [] ∧
      State.runFor 1 (addiAt 1) = .halted (addiDone 1) [{ idx := 0, w := 0x00500093#32, status := .executed }] ∧
      Session.moves [.startRun, .step, .returnRun] { core := addiAt 1, inRun := false } =
        some ([.nothing, .report { idx := 0, w := 0x00500093#32, status := .executed }, .nothing],
          { core := addiDone 1, inRun := false }) := ⟨rfl, rfl, rfl⟩

end Sys2Proof.Tests
end

section
/-! Proofs of the statements of 00_scope.md: which words P_DECODE touches (R10), and which store word a step reads (R14). -/

namespace Sys2Proof.Machine

/-! ## Canonical words decode alike under STRICT and LENIENT (R10, R74, R75) -/

/-- A secondary function code of R72 selects the same operation under both modes. -/
theorem selectAlt_strict_eq_lenient {alt : Bool} {f7 : BitVec 7}
    (h : f7 = 0b0000000#7 ∨ (f7 = 0b0100000#7 ∧ alt = true)) :
    selectAlt .strict alt f7 = selectAlt .lenient alt f7 := by
  rcases h with rfl | ⟨rfl, rfl⟩ <;> rfl

/-- JALR with funct3 000 decodes alike. -/
theorem decodeJalr_strict_eq_lenient {w : Word} (h : funct3Of w = 0b000#3) :
    decodeJalr .strict w = decodeJalr .lenient w := by
  simp [decodeJalr, h]

/-- An OP word whose funct7 R74 lists decodes alike. -/
theorem decodeOp_strict_eq_lenient {w : Word}
    (h : funct7Of w = 0b0000000#7 ∨ (funct7Of w = 0b0100000#7 ∧ (funct3Of w = 0b000#3 ∨ funct3Of w = 0b101#3))) :
    decodeOp .strict w = decodeOp .lenient w := by
  have hsel : selectAlt .strict (funct3Of w == 0b000#3 || funct3Of w == 0b101#3) (funct7Of w) =
      selectAlt .lenient (funct3Of w == 0b000#3 || funct3Of w == 0b101#3) (funct7Of w) :=
    selectAlt_strict_eq_lenient (by simpa using h)
  simp only [decodeOp, hsel]

/-- An OP-IMM word decodes alike: only its shifts look at funct7, and theirs R74 lists. -/
theorem decodeOpImm_strict_eq_lenient {w : Word} (hsll : funct3Of w = 0b001#3 → funct7Of w = 0b0000000#7)
    (hsr : funct3Of w = 0b101#3 → funct7Of w = 0b0000000#7 ∨ funct7Of w = 0b0100000#7) :
    decodeOpImm .strict w = decodeOpImm .lenient w := by
  by_cases h1 : funct3Of w = 0b001#3
  · have hsel : selectAlt .strict false (funct7Of w) = selectAlt .lenient false (funct7Of w) :=
      selectAlt_strict_eq_lenient (.inl (hsll h1))
    simp [decodeOpImm, h1, hsel]
  by_cases h5 : funct3Of w = 0b101#3
  · have hsel : selectAlt .strict true (funct7Of w) = selectAlt .lenient true (funct7Of w) :=
      selectAlt_strict_eq_lenient (by simpa using hsr h5)
    simp [decodeOpImm, h5, hsel]
  · have other : ∀ f : BitVec 3, f ≠ 0b001#3 → f ≠ 0b101#3 →
        f = 0b000#3 ∨ f = 0b010#3 ∨ f = 0b011#3 ∨ f = 0b100#3 ∨ f = 0b110#3 ∨ f = 0b111#3 := by decide
    rcases other _ h1 h5 with h | h | h | h | h | h <;> simp [decodeOpImm, h]

/-- Settles O12, opcode by opcode: only OP, OP-IMM and JALR look at P_DECODE, and there R74's codes select alike. -/
theorem canonicalWordsDecodeAlike : Obligations.CanonicalWordsDecodeAlike := by
  intro w ⟨hop, hsll, hsr, hjalr⟩
  rcases decodeWith_cases .strict w with ⟨o, e⟩ | ⟨o, e⟩ | ⟨o, e⟩ | ⟨o, e⟩ | ⟨o, e⟩ | ⟨o, e⟩ | ⟨o, e⟩ | ⟨o, e⟩ | ⟨o, e⟩ |
      ⟨o, e⟩ | ⟨o, e⟩ | ⟨o1, o2, o3, o4, o5, o6, o7, o8, o9, o10, o11, e⟩ <;> rw [e]
  · rw [decodeWith_of_lui o]
  · rw [decodeWith_of_auipc o]
  · rw [decodeWith_of_jal o]
  · rw [decodeWith_of_jalr o, decodeJalr_strict_eq_lenient (hjalr o)]
  · rw [decodeWith_of_opImm o, decodeOpImm_strict_eq_lenient (hsll o) (hsr o)]
  · rw [decodeWith_of_op o, decodeOp_strict_eq_lenient (hop o)]
  · rw [decodeWith_of_branch o]
  · rw [decodeWith_of_load o]
  · rw [decodeWith_of_store o]
  · rw [decodeWith_of_miscMem o]
  · rw [decodeWith_of_system o]
  · rw [decodeWith_of_other o1 o2 o3 o4 o5 o6 o7 o8 o9 o10 o11]

/-! ## The store plays no part in a step but for the word fetched (R14, R42, R91) -/

/-- The word fetched is fetched again from a store with the same word at pc. -/
theorem State.fetch_withStore {s : State} {m : Memory} {w : Word} (hf : s.fetch = some w)
    (hread : Memory.read m s.pc.toNat = Memory.read s.store s.pc.toNat) : State.fetch { s with store := m } = some w := by
  obtain ⟨hrun, hw⟩ := (s.fetch_eq_some w).1 hf
  exact (State.fetch_eq_some _ w).2 ⟨hrun, hread.trans hw⟩

/-- With another store an instruction takes the step it took, and carries that store along. -/
theorem exec_withStore_eq_next {i : Instr} {s t : State} (m : Memory) (h : exec i s = .next t) :
    exec i { s with store := m } = .next { t with store := m } := by
  obtain ⟨e, he, hm⟩ := exec_withStore i s m
  cases he.symm.trans h
  rw [hm, State.commit_withStore]

/-- Settles O41: the fetch reads the same word, so the same instruction or rejection is executed, and neither reads the
store. -/
theorem stepReadsOnlyTheFetchedWord : Obligations.StepReadsOnlyTheFetchedWord := by
  intro p s t m hread h
  obtain ⟨w, hf, ⟨i, hd, hi⟩ | ⟨r, hd, rfl⟩⟩ := stepWith_cases p h
  all_goals have hf' := State.fetch_withStore hf hread
  · rw [stepWith_of_instr p hf' hd]
    exact exec_withStore_eq_next m hi
  · rw [stepWith_of_rejected p hf' hd, execRejected_eq]
    exact congrArg Host.Outcome.next (State.commit_withStore _ s.advance m)

end Sys2Proof.Machine
end

section
/-! Proofs of the statements of 10_state.md: what RESET leaves (R35 to R37), what every step keeps (R20, R23), which
registers a step reads and writes (R22, R24, R29), and where a target below index 0 goes (R27). -/

namespace Sys2Proof.Machine

/-! ## RESET (R35 to R37, R240) -/

/-- RESET accepts every capacity up to 2^30 (R8). -/
theorem State.resetTo_of_le {c : Nat} (h : c ≤ 2 ^ 30) : State.resetTo c = some (State.construct c) := if_pos h

@[simp] theorem State.construct_readReg (c : Nat) (r : RegIx) : (State.construct c).readReg r = 0 := by
  simp [State.readReg]

/-- Settles O1: RESET(c) answers `State.construct c`, whose registers, pc and store are 0. -/
theorem resetZeroFillsEverything : Obligations.ResetZeroFillsEverything := by
  intro c hc
  exact ⟨_, State.resetTo_of_le hc, fun r => ⟨by simp, by simp⟩, rfl, rfl, fun _ => rfl⟩

/-! ## What every step keeps (R20, R23, R96) -/

section
variable {p : DecodeMode} {s t : State}

/-- No step writes the store (R42, R95). -/
theorem stepWith_store (h : stepWith p s = .next t) : t.store = s.store := by
  obtain ⟨e, rfl⟩ := stepWith_commits p h
  simp

/-- No step changes the capacity (R241). -/
theorem stepWith_capacity (h : stepWith p s = .next t) : t.capacity = s.capacity := by
  obtain ⟨e, rfl⟩ := stepWith_commits p h
  simp

/-- Every step leaves x0's cell 0, whatever it held before (R96). -/
theorem stepWith_x0 (h : stepWith p s = .next t) : t.regs[0] = 0 := by
  obtain ⟨e, rfl⟩ := stepWith_commits p h
  simp

end

/-- Settles O3: a step keeps the store and the capacity, and its write-back leaves x0's cell 0. -/
theorem stepKeepsInvariant : Obligations.StepKeepsInvariant := by
  intro s t ⟨hwf, hbelow, _, hcap⟩ h
  rw [State.Inv, stepWith_store h, stepWith_capacity h]
  exact ⟨hwf, hbelow, stepWith_x0 h, hcap⟩

/-- Settles O35: the write-back leaves the cell 0, and x0 reads as 0 in every state. -/
theorem x0IsZeroAfterEveryStep : Obligations.X0IsZeroAfterEveryStep :=
  fun _ _ t h => ⟨stepWith_x0 h, t.readReg_zero⟩

/-! ## The registers a step reads and writes (R22, R24, R29, R94, R95) -/

/-- The effect has no register result, or one for `rd`. -/
def Effect.WritesAtMost (e : Effect) (rd : RegIx) : Prop := e.reg = none ∨ ∃ v, e.reg = some (rd, v)

theorem State.commit_readReg_of_ne {e : Effect} {rd r : RegIx} (he : e.WritesAtMost rd) (hr : r ≠ rd) (s : State) :
    (s.commit e).readReg r = s.readReg r := by
  obtain ⟨reg, q⟩ := e
  obtain rfl | ⟨v, rfl⟩ := he
  · exact State.commit_readReg_none r q s
  · rw [State.commit_readReg_some, if_neg hr]
    split
    · next h0 => rw [h0, State.readReg_zero]
    · rfl

/-- The same effect committed in two states: each register becomes equal in both or keeps its value in both. -/
theorem State.commit_readReg_alike (e : Effect) (s s' : State) (r : RegIx) :
    (s'.commit e).readReg r = (s.commit e).readReg r ∨
      ((s'.commit e).readReg r = s'.readReg r ∧ (s.commit e).readReg r = s.readReg r) := by
  obtain ⟨_ | ⟨rd, v⟩, q⟩ := e
  · exact .inr ⟨State.commit_readReg_none r q s', State.commit_readReg_none r q s⟩
  by_cases hr : r = rd
  · exact .inl (by simp only [State.commit_readReg_some, hr, if_true])
  · have hrd : Effect.WritesAtMost { reg := some (rd, v), pc := q } rd := .inr ⟨v, rfl⟩
    exact .inr ⟨State.commit_readReg_of_ne hrd hr s', State.commit_readReg_of_ne hrd hr s⟩

/-- The outcomes `o` in `s` and `o'` in `s'` are one and the same effect committed, which writes at most `rd`. -/
def CommitAlike (rd : RegIx) (s s' : State) (o o' : Host.Outcome State Fault Refusal) : Prop :=
  ∃ e : Effect, o = .next (s.commit e) ∧ o' = .next (s'.commit e) ∧ e.WritesAtMost rd

theorem writeResult_alike {rd : RegIx} {v v' : Word} {s s' : State} (hv : v' = v) :
    CommitAlike rd s s' (writeResult rd v s) (writeResult rd v' s') := by
  subst hv
  exact ⟨_, writeResult_eq .., writeResult_eq .., .inr ⟨_, rfl⟩⟩

theorem jumpAndLink_alike {rd : RegIx} {l l' q q' : Word} {s s' : State} (hl : l' = l) (hq : q' = q) :
    CommitAlike rd s s' (jumpAndLink rd l q s) (jumpAndLink rd l' q' s') := by
  subst hl hq
  exact ⟨_, jumpAndLink_eq .., jumpAndLink_eq .., .inr ⟨_, rfl⟩⟩

theorem branchIf_alike {rd : RegIx} {c c' : Bool} {q q' : Word} {s s' : State} (hc : c' = c) (hq : q' = q) :
    CommitAlike rd s s' (branchIf c q s) (branchIf c' q' s') := by
  subst hc hq
  exact ⟨_, branchIf_eq .., branchIf_eq .., .inl rfl⟩

theorem unimplemented_alike {rd : RegIx} {s s' : State} :
    CommitAlike rd s s' (unimplemented s) (unimplemented s') :=
  ⟨_, unimplemented_eq s, unimplemented_eq s', .inl rfl⟩

/-- In two states with the same pc and values in rs1 and rs2 an instruction commits the same effect, to rd at most. -/
theorem exec_alike {i : Instr} {w : Word} {s s' : State} (hi : i.FieldsOf w) (hpc : s'.pc = s.pc)
    (h1 : s'.readReg (rs1Of w) = s.readReg (rs1Of w)) (h2 : s'.readReg (rs2Of w) = s.readReg (rs2Of w)) :
    CommitAlike (rdOf w) s s' (exec i s) (exec i s') := by
  cases i with
  | lui rd imm | auipc rd imm =>
    obtain ⟨rfl, -⟩ := hi
    exact writeResult_alike (by simp only [hpc])
  | jal rd off =>
    obtain ⟨rfl, -⟩ := hi
    exact jumpAndLink_alike (by rw [hpc]) (by rw [hpc])
  | jalr rd rs1 imm =>
    obtain ⟨rfl, rfl, -⟩ := hi
    exact jumpAndLink_alike (by rw [hpc]) (by rw [h1])
  | addi rd rs1 x | slti rd rs1 x | sltiu rd rs1 x | xori rd rs1 x | ori rd rs1 x | andi rd rs1 x
  | slli rd rs1 x | srli rd rs1 x | srai rd rs1 x =>
    obtain ⟨rfl, rfl, -⟩ := hi
    exact writeResult_alike (by rw [h1])
  | add rd rs1 rs2 | sub rd rs1 rs2 | sll rd rs1 rs2 | slt rd rs1 rs2 | sltu rd rs1 rs2
  | xor rd rs1 rs2 | srl rd rs1 rs2 | sra rd rs1 rs2 | or rd rs1 rs2 | and rd rs1 rs2 =>
    obtain ⟨rfl, rfl, rfl⟩ := hi
    exact writeResult_alike (by rw [h1, h2])
  | beq rs1 rs2 off | bne rs1 rs2 off | blt rs1 rs2 off | bge rs1 rs2 off | bltu rs1 rs2 off | bgeu rs1 rs2 off =>
    obtain ⟨rfl, rfl, -⟩ := hi
    exact branchIf_alike (by rw [h1, h2]) (by rw [hpc])
  | _ => exact unimplemented_alike

/-- The step of a fetched word commits the same effect, to the word's rd at most, in every state alike in pc, capacity, store
and the word's two source registers. -/
theorem stepWith_alike (p : DecodeMode) {s s' : State} {w : Word} (hf : s.fetch = some w) (hpc : s'.pc = s.pc)
    (hcap : s'.capacity = s.capacity) (hstore : s'.store = s.store)
    (h1 : s'.readReg (rs1Of w) = s.readReg (rs1Of w)) (h2 : s'.readReg (rs2Of w) = s.readReg (rs2Of w)) :
    CommitAlike (rdOf w) s.advance s'.advance (stepWith p s) (stepWith p s') := by
  have hf' : s'.fetch = some w :=
    (s'.fetch_eq_some w).2 (by rw [hpc, hcap, hstore]; exact (s.fetch_eq_some w).1 hf)
  cases hd : decodeWith p w with
  | instr i =>
    rw [stepWith_of_instr p hf hd, stepWith_of_instr p hf' hd]
    exact exec_alike (decodeWith_fieldsOf hd) (by simp [hpc]) (by simpa using h1) (by simpa using h2)
  | rejected r =>
    rw [stepWith_of_rejected p hf hd, stepWith_of_rejected p hf' hd]
    exact unimplemented_alike

/-- Settles O36: the one effect a step commits writes at most the register rd names. -/
theorem stepWritesOnlyTheRdRegister : Obligations.StepWritesOnlyTheRdRegister := by
  intro p s t w hf h r hr
  obtain ⟨e, he, -, hrd⟩ := stepWith_alike p (s' := s) hf rfl rfl rfl rfl rfl
  cases he.symm.trans h
  rw [State.commit_readReg_of_ne hrd hr, State.advance_readReg]

/-- Settles O42: both steps commit the same effect. -/
theorem stepReadsOnlyItsSourceRegisters : Obligations.StepReadsOnlyItsSourceRegisters := by
  intro p s s' t t' w hf hpc hcap hstore h1 h2 h h'
  obtain ⟨e, he, he', -⟩ := stepWith_alike p hf hpc hcap hstore h1 h2
  cases he.symm.trans h
  cases he'.symm.trans h'
  exact ⟨by simp [hpc], State.commit_readReg_alike e s.advance s'.advance⟩

/-! ## Where a JAL or BRANCH word takes pc (R27, R97, R101) -/

/-- After a branch pc is pc' or the target (R170). -/
theorem branchIf_pc {c : Bool} {q : Word} {s t : State} (h : branchIf c q s = .next t) : t.pc = s.pc ∨ t.pc = q := by
  rw [branchIf_eq] at h
  cases h
  cases c <;> simp

/-- Where an instruction of the word leaves pc: at pc', or at the target its opcode gives (R97). -/
theorem exec_pc_cases {i : Instr} {w : Word} {s t : State} (hi : i.FieldsOf w) (h : exec i s = .next t) :
    t.pc = s.pc ∨
      (opcodeOf w = 0b1101111#7 ∧ t.pc = jalTarget s.pc (offJOf w)) ∨
      (opcodeOf w = 0b1100111#7 ∧ t.pc = jalrTarget (s.readReg (rs1Of w)) (immIOf w)) ∨
      (opcodeOf w = 0b1100011#7 ∧ t.pc = branchTarget s.pc (offBOf w)) := by
  cases i with
  | jal rd off =>
    obtain ⟨-, rfl, hop⟩ := hi
    cases h
    exact .inr (.inl ⟨hop, rfl⟩)
  | jalr rd rs1 imm =>
    obtain ⟨-, rfl, rfl, hop⟩ := hi
    cases h
    exact .inr (.inr (.inl ⟨hop, rfl⟩))
  | beq rs1 rs2 off | bne rs1 rs2 off | blt rs1 rs2 off | bge rs1 rs2 off | bltu rs1 rs2 off | bgeu rs1 rs2 off =>
    obtain ⟨-, -, rfl, hop⟩ := hi
    exact (branchIf_pc h).imp_right fun e => .inr (.inr ⟨hop, e⟩)
  | _ =>
    cases h
    exact .inl rfl

/-- Division by 4 of a sign-extended offset is the integers' division, rounding down (R69; 92_eei_decisions.md D2). -/
theorem floor4_signExtend {n : Nat} (hn : n ≤ 32) (off : BitVec n) :
    floor4 (off.signExtend 32) = BitVec.ofInt 32 (off.toInt / 4) := by
  rw [floor4, BitVec.sshiftRight_eq, BitVec.toInt_signExtend_of_le hn, Int.shiftRight_eq_div_pow]
  rfl

/-- A jump target is idx plus a quarter of the offset, rounded down (R69, R120; 92_eei_decisions.md D2). -/
theorem jalTarget_advance (pc : Word) (off : BitVec 21) :
    jalTarget (pc + 1) off = pc + BitVec.ofInt 32 (off.toInt / 4) := by
  rw [jalTarget, immJ, floor4_signExtend (by decide), BitVec.add_sub_cancel]

/-- A branch target is idx plus a quarter of the offset, rounded down (R69, R170; 92_eei_decisions.md D2). -/
theorem branchTarget_advance (pc : Word) (off : BitVec 13) :
    branchTarget (pc + 1) off = pc + BitVec.ofInt 32 (off.toInt / 4) := by
  rw [branchTarget, immB, floor4_signExtend (by decide), add_right_comm, BitVec.add_sub_cancel]

/-- Where the step of a fetched word leaves pc: at idx + 1, or at the target its opcode gives (R92, R97). -/
theorem stepWith_pc_cases {p : DecodeMode} {s t : State} {w : Word} (hf : s.fetch = some w) (h : stepWith p s = .next t) :
    t.pc = s.pc + 1 ∨
      (opcodeOf w = 0b1101111#7 ∧ t.pc = s.pc + BitVec.ofInt 32 ((offJOf w).toInt / 4)) ∨
      (opcodeOf w = 0b1100111#7 ∧ t.pc = jalrTarget (s.readReg (rs1Of w)) (immIOf w)) ∨
      (opcodeOf w = 0b1100011#7 ∧ t.pc = s.pc + BitVec.ofInt 32 ((offBOf w).toInt / 4)) := by
  rw [← jalTarget_advance, ← branchTarget_advance]
  obtain ⟨w', hf', ⟨i, hd, hi⟩ | ⟨r, -, rfl⟩⟩ := stepWith_cases p h
  · cases hf.symm.trans hf'
    exact exec_pc_cases (decodeWith_fieldsOf hd) hi
  · exact .inl rfl

/-- A JAL word is always a jump (R120). -/
theorem stepWith_pc_of_jal {p : DecodeMode} {s t : State} {w : Word} (hf : s.fetch = some w)
    (hop : opcodeOf w = 0b1101111#7) (h : stepWith p s = .next t) :
    t.pc = s.pc + BitVec.ofInt 32 ((offJOf w).toInt / 4) := by
  rw [stepWith_of_instr p hf (decodeWith_of_jal hop)] at h
  cases h
  exact jalTarget_advance s.pc (offJOf w)

/-- A BRANCH word falls through or goes to its target (R170, R177). -/
theorem stepWith_pc_of_branch {p : DecodeMode} {s t : State} {w : Word} (hf : s.fetch = some w)
    (hop : opcodeOf w = 0b1100011#7) (h : stepWith p s = .next t) :
    t.pc = s.pc + 1 ∨ t.pc = s.pc + BitVec.ofInt 32 ((offBOf w).toInt / 4) := by
  simpa [hop] using stepWith_pc_cases hf h

/-- A quarter of an offset of at most 21 bits is less than 2^18 words either way (R65, R66). -/
theorem toInt_div_four_bounds {n : Nat} (hn : n ≤ 21) (off : BitVec n) :
    -2 ^ 18 ≤ off.toInt / 4 ∧ off.toInt / 4 < 2 ^ 18 := by
  have hlo := off.le_toInt
  have hhi := off.toInt_lt
  have hpow : (2 : Int) ^ (n - 1) ≤ 2 ^ 20 := by gcongr <;> omega
  omega

/-- From an index below `C <= 2^30`, a displacement of less than 2^18 words either lands exactly, or below 0, where it wraps
to at least 2^32 - 2^18 and the core is Halted (R27, R101; 92_eei_decisions.md D3). -/
theorem exact_or_halted_of_pc {s t : State} {k : Int} (hcap : s.capacity ≤ 2 ^ 30) (hrun : s.pc.toNat < s.capacity)
    (htcap : t.capacity = s.capacity) (hk : -2 ^ 18 ≤ k ∧ k < 2 ^ 18) (ht : t.pc = s.pc + BitVec.ofInt 32 k) :
    (0 ≤ (s.pc.toNat : Int) + k ∧ (t.pc.toNat : Int) = (s.pc.toNat : Int) + k) ∨
      ((s.pc.toNat : Int) + k < 0 ∧ 2 ^ 32 - 2 ^ 18 ≤ t.pc.toNat ∧ t.running = false) := by
  rw [← Bool.not_eq_true, State.running_iff, htcap, ht, BitVec.toNat_add, BitVec.toNat_ofInt]
  omega

/-- Settles O39: JAL jumps, BRANCH falls through or jumps, and a jump lands exactly or halts. -/
theorem targetsBelowZeroHalt : Obligations.TargetsBelowZeroHalt := by
  intro p s t w hcap hf h hop k
  have hrun : s.pc.toNat < s.capacity := ((s.fetch_eq_some w).1 hf).1
  have lands := exact_or_halted_of_pc (t := t) (k := k) hcap hrun (stepWith_capacity h)
  obtain hjal | hbranch := hop
  · have hk : k = (offJOf w).toInt / 4 := if_pos hjal
    rw [hk] at lands ⊢
    exact .inr (lands (toInt_div_four_bounds (by decide) _) (stepWith_pc_of_jal hf hjal h))
  · have hk : k = (offBOf w).toInt / 4 := if_neg (by simp [hbranch])
    rw [hk] at lands ⊢
    obtain ht | ht := stepWith_pc_of_branch hf hbranch h
    · have hnext : t.pc.toNat = s.pc.toNat + 1 := by
        bv_omega
      exact .inl ⟨hbranch, hnext⟩
    · exact .inr (lands (toInt_div_four_bounds (by decide) _) ht)

end Sys2Proof.Machine
end

section
/-! Proofs of the statements of 20_memory.md: the canonical form says all a store holds, and only that (R37, R40; log
entry 7). -/

namespace Sys2Proof.Machine

/-! ## The first entry of a store -/

@[simp] theorem Memory.read_nil (i : Nat) : Memory.read [] i = 0 := rfl

@[simp] theorem Memory.read_cons_self (a : Nat) (w : Word) (m : Memory) : Memory.read ((a, w) :: m) a = w := if_pos rfl

theorem Memory.read_cons_of_ne {a i : Nat} (h : i ≠ a) (w : Word) (m : Memory) :
    Memory.read ((a, w) :: m) i = Memory.read m i := if_neg h

theorem Memory.wfFrom_cons_iff {lo a : Nat} {w : Word} {m : Memory} :
    Memory.wfFrom lo ((a, w) :: m) = true ↔ lo ≤ a ∧ w ≠ 0 ∧ Memory.wfFrom (a + 1) m = true := by
  simp [Memory.wfFrom, and_assoc]

/-! ## What a canonical store reads as, and that it is the only one to read so -/

/-- A store whose entries start at `lo` reads 0 below it. -/
theorem Memory.read_eq_zero_of_lt {lo i : Nat} {m : Memory} (h : Memory.wfFrom lo m = true) (hi : i < lo) :
    Memory.read m i = 0 := by
  induction m generalizing lo with
  | nil => rfl
  | cons e m ih =>
    obtain ⟨a, w⟩ := e
    obtain ⟨hlo, -, hm⟩ := Memory.wfFrom_cons_iff.1 h
    rw [Memory.read_cons_of_ne (by omega)]
    exact ih hm (by omega)

/-- The first entry stands at or below every index that reads as other than 0. -/
theorem Memory.head_le_of_read_ne_zero {lo a i : Nat} {w : Word} {m : Memory}
    (h : Memory.wfFrom lo ((a, w) :: m) = true) (hi : Memory.read ((a, w) :: m) i ≠ 0) : a ≤ i := by
  obtain ⟨-, hw, hm⟩ := Memory.wfFrom_cons_iff.1 h
  have hfrom : Memory.wfFrom a ((a, w) :: m) = true := Memory.wfFrom_cons_iff.2 ⟨le_rfl, hw, hm⟩
  exact not_lt.1 fun hlt => hi (Memory.read_eq_zero_of_lt hfrom hlt)

/-- The first entries of two stores that read alike stand at one index: each reads as other than 0 in both stores. So they are
equal, and the rest of both stores reads alike. -/
theorem Memory.eq_of_read_eq {lo : Nat} {m n : Memory} (hm : Memory.wfFrom lo m = true) (hn : Memory.wfFrom lo n = true)
    (h : ∀ i, Memory.read m i = Memory.read n i) : m = n := by
  induction m generalizing lo n with
  | nil =>
    cases n with
    | nil => rfl
    | cons e n =>
      obtain ⟨b, u⟩ := e
      obtain ⟨-, hu, -⟩ := Memory.wfFrom_cons_iff.1 hn
      exact absurd (by simpa using (h b).symm) hu
  | cons e m ih =>
    obtain ⟨a, w⟩ := e
    obtain ⟨-, hw, hm'⟩ := Memory.wfFrom_cons_iff.1 hm
    cases n with
    | nil => exact absurd (by simpa using h a) hw
    | cons e n =>
      obtain ⟨b, u⟩ := e
      obtain ⟨-, hu, hn'⟩ := Memory.wfFrom_cons_iff.1 hn
      have hba : b ≤ a := Memory.head_le_of_read_ne_zero hn (by rwa [← h a, Memory.read_cons_self])
      have hab : a ≤ b := Memory.head_le_of_read_ne_zero hm (by rwa [h b, Memory.read_cons_self])
      obtain rfl := le_antisymm hab hba
      obtain rfl : w = u := by simpa using h a
      have htail : ∀ i, Memory.read m i = Memory.read n i := by
        intro i
        by_cases hi : i = a
        · rw [Memory.read_eq_zero_of_lt hm' (by omega), Memory.read_eq_zero_of_lt hn' (by omega)]
        · simpa only [Memory.read_cons_of_ne hi] using h i
      rw [ih hm' hn' htail]

/-- Settles O6: the canonical form is the one that starts at index 0 or above. -/
theorem canonicalStoresThatReadAlikeAreEqual : Obligations.CanonicalStoresThatReadAlikeAreEqual :=
  fun _ _ hm hn h => Memory.eq_of_read_eq hm hn h

end Sys2Proof.Machine
end

section
/-! Proofs of the statements of 30_encoding.md: decoder and encoder undo each other (R60 to R75), the decoder and the opcode
table agree, what LENIENT executes and what neither mode does (R73 to R75), and the immediates bit by bit (R63 to R66). -/

namespace Sys2Proof

variable {p : DecodeMode} {w : Word} {i : Instr}

/-! ## Decoding the word of an instruction gives it back (R70 to R75) -/

/-- The five SYSTEM words written out whole have another funct7 than SFENCE.VMA (R205). -/
theorem decodePriv_of_sfenceVma (h7 : funct7Of w = 0b0001001#7) (hrd : rdOf w = 0) :
    decodePriv w = .instr (.sfenceVma (rs1Of w) (rs2Of w)) := by
  have hne : ∀ v : Word, funct7Of v ≠ 0b0001001#7 → w ≠ v := by
    rintro v hv rfl
    exact hv h7
  rw [decodePriv, if_neg (hne _ (by decide)), if_neg (hne _ (by decide)), if_neg (hne _ (by decide)),
    if_neg (hne _ (by decide)), if_neg (hne _ (by decide)), if_pos ⟨h7, hrd⟩]

/-- Settles O7, opcode by opcode: the word's selector fields pick the instruction, and its operand fields read back as they
were put in; a jump or branch offset does so because it is even. -/
theorem decodeOfEncodeIsTheInstruction : Obligations.DecodeOfEncodeIsTheInstruction := by
  intro p i hwf
  cases i with
  | lui rd imm => simp [encode, decodeWith_of_lui]
  | auipc rd imm => simp [encode, decodeWith_of_auipc]
  | jal rd off =>
    have heven : off.getLsbD 0 = false := by simpa [Instr.wf] using hwf
    simp [encode, decodeWith_of_jal, wordJ_offJOf off _ _ heven]
  | jalr rd rs1 imm => simp [encode, decodeWith_of_jalr, decodeJalr]
  | addi rd rs1 x | slti rd rs1 x | sltiu rd rs1 x | xori rd rs1 x | ori rd rs1 x | andi rd rs1 x
  | slli rd rs1 x | srli rd rs1 x | srai rd rs1 x => simp [encode, decodeWith_of_opImm, decodeOpImm, selectAlt]
  | add rd rs1 rs2 | sub rd rs1 rs2 | sll rd rs1 rs2 | slt rd rs1 rs2 | sltu rd rs1 rs2
  | xor rd rs1 rs2 | srl rd rs1 rs2 | sra rd rs1 rs2 | or rd rs1 rs2 | and rd rs1 rs2 =>
    simp [encode, decodeWith_of_op, decodeOp, selectAlt]
  | beq rs1 rs2 off | bne rs1 rs2 off | blt rs1 rs2 off | bge rs1 rs2 off | bltu rs1 rs2 off | bgeu rs1 rs2 off =>
    have heven : off.getLsbD 0 = false := by simpa [Instr.wf] using hwf
    simp [encode, decodeWith_of_branch, decodeBranch, wordB_offBOf off _ _ _ _ heven]
  | lb rd rs1 x | lh rd rs1 x | lw rd rs1 x | lbu rd rs1 x | lhu rd rs1 x => simp [encode, decodeWith_of_load, decodeLoad]
  | sb rs1 rs2 x | sh rs1 rs2 x | sw rs1 rs2 x => simp [encode, decodeWith_of_store, decodeStore]
  | fence rd rs1 x | fenceI rd rs1 x => simp [encode, decodeWith_of_miscMem, decodeMiscMem]
  | csrrw rd x csr | csrrs rd x csr | csrrc rd x csr | csrrwi rd x csr | csrrsi rd x csr | csrrci rd x csr =>
    simp [encode, decodeWith_of_system, decodeSystem]
  | ecall | ebreak | mret | sret | wfi => rfl
  | sfenceVma rs1 rs2 => simp [encode, decodeWith_of_system, decodeSystem, decodePriv_of_sfenceVma]

/-! ## Encoding what a word decodes to under STRICT gives the word back (R74) -/

section
variable {op f7 : BitVec 7} {f3 : BitVec 3}

/-! A word is its operand fields and the values of its selector fields. -/

theorem wordR_of_selectors (ho : opcodeOf w = op) (h3 : funct3Of w = f3) (h7 : funct7Of w = f7) :
    wordR f7 (rs2Of w) (rs1Of w) f3 (rdOf w) op = w := by
  rw [← ho, ← h3, ← h7, wordR_fields]

theorem wordI_of_selectors (ho : opcodeOf w = op) (h3 : funct3Of w = f3) :
    wordI (immIOf w) (rs1Of w) f3 (rdOf w) op = w := by
  rw [← ho, ← h3, wordI_fields]

theorem wordShift_of_selectors (ho : opcodeOf w = op) (h3 : funct3Of w = f3) (h7 : funct7Of w = f7) :
    wordShift f7 (shamtOf w) (rs1Of w) f3 (rdOf w) op = w := by
  rw [← ho, ← h3, ← h7, wordShift_fields]

theorem wordCsrImm_of_selectors (ho : opcodeOf w = op) (h3 : funct3Of w = f3) :
    wordCsrImm (immIOf w) (uimmOf w) f3 (rdOf w) op = w := by
  rw [← ho, ← h3, wordCsrImm_fields]

theorem wordS_of_selectors (ho : opcodeOf w = op) (h3 : funct3Of w = f3) :
    wordS (immSOf w) (rs2Of w) (rs1Of w) f3 op = w := by
  rw [← ho, ← h3, wordS_fields]

theorem wordB_of_selectors (ho : opcodeOf w = op) (h3 : funct3Of w = f3) :
    wordB (offBOf w) (rs2Of w) (rs1Of w) f3 op = w := by
  rw [← ho, ← h3, wordB_fields]

theorem wordU_of_opcode (ho : opcodeOf w = op) : wordU (immUOf w) (rdOf w) op = w := by
  rw [← ho, wordU_fields]

theorem wordJ_of_opcode (ho : opcodeOf w = op) : wordJ (offJOf w) (rdOf w) op = w := by
  rw [← ho, wordJ_fields]

end

theorem funct3_cases (f : BitVec 3) : f = 0b000#3 ∨ f = 0b001#3 ∨ f = 0b010#3 ∨ f = 0b011#3 ∨ f = 0b100#3 ∨
    f = 0b101#3 ∨ f = 0b110#3 ∨ f = 0b111#3 := by
  revert f; decide

/-- The function codes STRICT selects an operation by (R72, R74). -/
theorem selectAlt_strict_eq_some {alt b : Bool} {f7 : BitVec 7} : selectAlt .strict alt f7 = some b ↔
    (b = false ∧ f7 = 0b0000000#7) ∨ (b = true ∧ alt = true ∧ f7 = 0b0100000#7) := by
  revert alt b f7; decide

theorem encode_of_decodeJalr_strict (ho : opcodeOf w = 0b1100111#7) (h : decodeJalr .strict w = .instr i) :
    encode i = w := by
  by_cases h3 : funct3Of w = 0b000#3
  · rw [decodeJalr, if_pos h3] at h
    cases h
    exact wordI_of_selectors ho h3
  · rw [decodeJalr, if_neg h3] at h
    cases h

theorem encode_of_decodeOpImm_strict (ho : opcodeOf w = 0b0010011#7) (h : decodeOpImm .strict w = .instr i) :
    encode i = w := by
  rcases funct3_cases (funct3Of w) with h3 | h3 | h3 | h3 | h3 | h3 | h3 | h3 <;>
    simp only [decodeOpImm, h3, BitVec.reduceEq, reduceIte] at h
  case inr.inl => -- funct3 001: SLLI
    cases hsel : selectAlt .strict false (funct7Of w) with
    | none => simp [hsel] at h
    | some b =>
      rw [hsel] at h
      cases h
      obtain ⟨-, h7⟩ | ⟨-, hf, -⟩ := selectAlt_strict_eq_some.1 hsel
      · exact wordShift_of_selectors ho h3 h7
      · cases hf
  case inr.inr.inr.inr.inr.inl => -- funct3 101: SRLI and SRAI
    cases hsel : selectAlt .strict true (funct7Of w) with
    | none => simp [hsel] at h
    | some b =>
      rw [hsel] at h
      obtain ⟨rfl, h7⟩ | ⟨rfl, -, h7⟩ := selectAlt_strict_eq_some.1 hsel <;>
      · cases h
        exact wordShift_of_selectors ho h3 h7
  all_goals
    cases h
    exact wordI_of_selectors ho h3

theorem encode_of_decodeOp_strict (ho : opcodeOf w = 0b0110011#7) (h : decodeOp .strict w = .instr i) :
    encode i = w := by
  cases hsel : selectAlt .strict (funct3Of w == 0b000#3 || funct3Of w == 0b101#3) (funct7Of w) with
  | none => simp [decodeOp, hsel] at h
  | some b =>
    simp only [decodeOp, hsel] at h
    obtain ⟨rfl, h7⟩ | ⟨rfl, halt, h7⟩ := selectAlt_strict_eq_some.1 hsel
    · rcases funct3_cases (funct3Of w) with h3 | h3 | h3 | h3 | h3 | h3 | h3 | h3 <;>
        simp only [h3, BitVec.reduceEq, reduceIte, Bool.false_eq_true] at h <;>
        cases h <;> exact wordR_of_selectors ho h3 h7
    · rw [Bool.or_eq_true, beq_iff_eq, beq_iff_eq] at halt
      rcases halt with h3 | h3 <;>
        simp only [h3, BitVec.reduceEq, reduceIte] at h <;>
        cases h <;> exact wordR_of_selectors ho h3 h7

theorem encode_of_decodeBranch (ho : opcodeOf w = 0b1100011#7) (h : decodeBranch w = .instr i) : encode i = w := by
  rcases funct3_cases (funct3Of w) with h3 | h3 | h3 | h3 | h3 | h3 | h3 | h3 <;>
    simp only [decodeBranch, h3, BitVec.reduceEq, reduceIte] at h <;>
    cases h <;> exact wordB_of_selectors ho h3

theorem encode_of_decodeLoad (ho : opcodeOf w = 0b0000011#7) (h : decodeLoad w = .instr i) : encode i = w := by
  rcases funct3_cases (funct3Of w) with h3 | h3 | h3 | h3 | h3 | h3 | h3 | h3 <;>
    simp only [decodeLoad, h3, BitVec.reduceEq, reduceIte] at h <;>
    cases h <;> exact wordI_of_selectors ho h3

theorem encode_of_decodeStore (ho : opcodeOf w = 0b0100011#7) (h : decodeStore w = .instr i) : encode i = w := by
  rcases funct3_cases (funct3Of w) with h3 | h3 | h3 | h3 | h3 | h3 | h3 | h3 <;>
    simp only [decodeStore, h3, BitVec.reduceEq, reduceIte] at h <;>
    cases h <;> exact wordS_of_selectors ho h3

theorem encode_of_decodeMiscMem (ho : opcodeOf w = 0b0001111#7) (h : decodeMiscMem w = .instr i) : encode i = w := by
  rcases funct3_cases (funct3Of w) with h3 | h3 | h3 | h3 | h3 | h3 | h3 | h3 <;>
    simp only [decodeMiscMem, h3, BitVec.reduceEq, reduceIte] at h <;>
    cases h <;> exact wordI_of_selectors ho h3

theorem encode_of_decodePriv (ho : opcodeOf w = 0b1110011#7) (h3 : funct3Of w = 0b000#3) (h : decodePriv w = .instr i) :
    encode i = w := by
  simp only [decodePriv] at h
  split_ifs at h with hecall hebreak hmret hsret hwfi hsfence <;> cases h
  · exact hecall.symm
  · exact hebreak.symm
  · exact hmret.symm
  · exact hsret.symm
  · exact hwfi.symm
  · obtain ⟨h7, hrd⟩ := hsfence
    have hw := wordR_of_selectors ho h3 h7
    rwa [hrd] at hw

theorem encode_of_decodeSystem (ho : opcodeOf w = 0b1110011#7) (h : decodeSystem w = .instr i) : encode i = w := by
  rcases funct3_cases (funct3Of w) with h3 | h3 | h3 | h3 | h3 | h3 | h3 | h3 <;>
    simp only [decodeSystem, h3, BitVec.reduceEq, reduceIte] at h
  · exact encode_of_decodePriv ho h3 h
  all_goals cases h
  · exact wordI_of_selectors ho h3
  · exact wordI_of_selectors ho h3
  · exact wordI_of_selectors ho h3
  · exact wordCsrImm_of_selectors ho h3
  · exact wordCsrImm_of_selectors ho h3
  · exact wordCsrImm_of_selectors ho h3

/-- Settles O8, opcode by opcode: under STRICT every selector field of the word has its one value, so the word is its operand
fields in the instruction's format. -/
theorem encodeOfStrictDecodeIsTheWord : Obligations.EncodeOfStrictDecodeIsTheWord := by
  intro w i h
  rcases decodeWith_cases .strict w with ⟨o, e⟩ | ⟨o, e⟩ | ⟨o, e⟩ | ⟨o, e⟩ | ⟨o, e⟩ | ⟨o, e⟩ | ⟨o, e⟩ | ⟨o, e⟩ | ⟨o, e⟩ |
      ⟨o, e⟩ | ⟨o, e⟩ | ⟨-, -, -, -, -, -, -, -, -, -, -, e⟩ <;> rw [e] at h
  · cases h; exact wordU_of_opcode o
  · cases h; exact wordU_of_opcode o
  · cases h; exact wordJ_of_opcode o
  · exact encode_of_decodeJalr_strict o h
  · exact encode_of_decodeOpImm_strict o h
  · exact encode_of_decodeOp_strict o h
  · exact encode_of_decodeBranch o h
  · exact encode_of_decodeLoad o h
  · exact encode_of_decodeStore o h
  · exact encode_of_decodeMiscMem o h
  · exact encode_of_decodeSystem o h
  · cases h

/-! ## Decoded instructions are well formed (R65, R66) -/

/-- Settles O9: a decoded offset is the word's own, which has bit 0 zero. -/
theorem decodedInstructionsAreWellFormed : Obligations.DecodedInstructionsAreWellFormed := by
  intro p w i h
  have hfields := decodeWith_fieldsOf h
  cases i with
  | jal rd off =>
    obtain ⟨-, rfl, -⟩ := hfields
    simp [Instr.wf]
  | beq rs1 rs2 off | bne rs1 rs2 off | blt rs1 rs2 off | bge rs1 rs2 off | bltu rs1 rs2 off | bgeu rs1 rs2 off =>
    obtain ⟨-, -, rfl, -⟩ := hfields
    simp [Instr.wf]
  | _ => rfl

/-! ## The rows of the opcode table as conditions on the word's fields (R61, R72) -/

/-- Two words are equal when they agree in every field (R61). -/
theorem word_eq_iff_fields {v w : Word} : v = w ↔
    funct7Of v = funct7Of w ∧ shamtOf v = shamtOf w ∧ uimmOf v = uimmOf w ∧
      funct3Of v = funct3Of w ∧ regBits (rdOf v) = regBits (rdOf w) ∧ opcodeOf v = opcodeOf w := by
  refine ⟨fun h => by simp [h], fun ⟨h7, hs, hu, h3, hd, ho⟩ => ?_⟩
  have hfields : ∀ u : Word, wordShift (funct7Of u) (shamtOf u) (regOf (uimmOf u)) (funct3Of u)
      (regOf (regBits (rdOf u))) (opcodeOf u) = u := wordShift_fields
  rw [← hfields v, h7, hs, hu, h3, hd, ho, hfields]

/-- A mask and a pattern say of each field what their own fields say. -/
theorem and_eq_iff_fields {w m b : Word} : w &&& m = b ↔
    funct7Of w &&& funct7Of m = funct7Of b ∧ shamtOf w &&& shamtOf m = shamtOf b ∧ uimmOf w &&& uimmOf m = uimmOf b ∧
      funct3Of w &&& funct3Of m = funct3Of b ∧ regBits (rdOf w) &&& regBits (rdOf m) = regBits (rdOf b) ∧
      opcodeOf w &&& opcodeOf m = opcodeOf b := by
  rw [word_eq_iff_fields]
  simp only [funct7Of, shamtOf, uimmOf, funct3Of, rdOf, opcodeOf, regBits_regOf, BitVec.extractLsb'_and]

/-! The fields of a word written as a number. -/

theorem extractLsb'_ofNat {lo k : Nat} (h : lo + k ≤ 32) (n : Nat) :
    (BitVec.ofNat 32 n).extractLsb' lo k = BitVec.ofNat k (n >>> lo) := by
  apply BitVec.eq_of_getLsbD_eq
  intro i hi
  rw [BitVec.getLsbD_extractLsb', BitVec.getLsbD_ofNat, BitVec.getLsbD_ofNat, Nat.testBit_shiftRight,
    decide_eq_true (show lo + i < 32 by omega), Bool.true_and]

@[simp] theorem funct7Of_ofNat (n : Nat) : funct7Of (BitVec.ofNat 32 n) = BitVec.ofNat 7 (n >>> 25) :=
  extractLsb'_ofNat (by decide) n

@[simp] theorem shamtOf_ofNat (n : Nat) : shamtOf (BitVec.ofNat 32 n) = BitVec.ofNat 5 (n >>> 20) :=
  extractLsb'_ofNat (by decide) n

@[simp] theorem uimmOf_ofNat (n : Nat) : uimmOf (BitVec.ofNat 32 n) = BitVec.ofNat 5 (n >>> 15) :=
  extractLsb'_ofNat (by decide) n

@[simp] theorem funct3Of_ofNat (n : Nat) : funct3Of (BitVec.ofNat 32 n) = BitVec.ofNat 3 (n >>> 12) :=
  extractLsb'_ofNat (by decide) n

@[simp] theorem regBits_rdOf_ofNat (n : Nat) : regBits (rdOf (BitVec.ofNat 32 n)) = BitVec.ofNat 5 (n >>> 7) :=
  extractLsb'_ofNat (by decide) n

@[simp] theorem opcodeOf_ofNat (n : Nat) : opcodeOf (BitVec.ofNat 32 n) = BitVec.ofNat 7 n :=
  extractLsb'_ofNat (by decide) n

/-! What a mask keeps of a field: all of it, or the one bit `w[30]` (R75). -/

@[simp] theorem and_ones_three (x : BitVec 3) : x &&& 7#3 = x := BitVec.and_allOnes

@[simp] theorem and_ones_five (x : BitVec 5) : x &&& 31#5 = x := BitVec.and_allOnes

@[simp] theorem and_ones_seven (x : BitVec 7) : x &&& 127#7 = x := BitVec.and_allOnes

@[simp] theorem and_ones_word (w : Word) : w &&& 0xFFFFFFFF#32 = w := BitVec.and_allOnes

@[simp] theorem regBits_eq_zero_iff {r : RegIx} : regBits r = 0#5 ↔ r = 0 := by
  revert r; decide

@[simp] theorem and_bit5_eq_zero (f7 : BitVec 7) : f7 &&& 32#7 = 0#7 ↔ f7[5] = false := by
  revert f7; decide

@[simp] theorem and_bit5_eq_self (f7 : BitVec 7) : f7 &&& 32#7 = 32#7 ↔ f7[5] = true := by
  revert f7; decide

section
variable {name : String} {b m lb lm : Word}

@[simp] theorem OpcodeRow.matchesWord_strict_iff :
    OpcodeRow.matchesWord ⟨name, b, m, lb, lm⟩ .strict w = true ↔ w &&& m = b := by
  simp [OpcodeRow.matchesWord]

@[simp] theorem OpcodeRow.matchesWord_lenient_iff :
    OpcodeRow.matchesWord ⟨name, b, m, lb, lm⟩ .lenient w = true ↔ w &&& lm = lb := by
  simp [OpcodeRow.matchesWord]

@[simp] theorem OpcodeRow.both_matchesWord_iff : (OpcodeRow.both name b m).matchesWord p w = true ↔ w &&& m = b := by
  cases p
  · exact matchesWord_strict_iff
  · exact matchesWord_lenient_iff

@[simp] theorem OpcodeRow.both_mnemonic : (OpcodeRow.both name b m).mnemonic = name := rfl

end

/-! ## The decoder agrees with the table, opcode by opcode (R71 to R75) -/

/-- The mnemonic of what a word decodes to, if it is an instruction. -/
def Decoded.mnemonic : Decoded → Option String
  | .instr i => some i.mnemonic
  | .rejected _ => none

@[simp] theorem Decoded.mnemonic_instr (i : Instr) : (Decoded.instr i).mnemonic = some i.mnemonic := rfl

@[simp] theorem Decoded.mnemonic_rejected (r : Reject) : (Decoded.rejected r).mnemonic = none := rfl

theorem Decoded.mnemonic_eq_some_iff {d : Decoded} {m : String} :
    d.mnemonic = some m ↔ ∃ i, d = .instr i ∧ i.mnemonic = m := by
  cases d <;> simp

/-- `d` is an instruction with mnemonic `m` exactly when a row of `rows` with mnemonic `m` matches the word. -/
def Decoded.AgreesWith (d : Decoded) (p : DecodeMode) (w : Word) (rows : List OpcodeRow) : Prop :=
  ∀ m, d.mnemonic = some m ↔ ∃ r ∈ rows, r.matchesWord p w = true ∧ r.mnemonic = m

/-- The rows of an opcode. -/
def rowsOfOpcode (op : BitVec 7) : List OpcodeRow := opcodeRows.filter fun r => opcodeOf r.bits == op

/-- Every mask of the table covers the opcode field, and a row has one opcode under both modes (R71). -/
theorem opcodeRows_opcode : ∀ r ∈ opcodeRows, opcodeOf r.mask = 127#7 ∧ opcodeOf r.lenientMask = 127#7 ∧
    opcodeOf r.lenientBits = opcodeOf r.bits := by
  decide

theorem opcodeOf_of_matchesWord {r : OpcodeRow} (hr : r ∈ opcodeRows) (h : r.matchesWord p w = true) :
    opcodeOf r.bits = opcodeOf w := by
  obtain ⟨hmask, hlmask, hlbits⟩ := opcodeRows_opcode r hr
  cases p
  · obtain ⟨-, -, -, -, -, ho⟩ := and_eq_iff_fields.1 (OpcodeRow.matchesWord_strict_iff.1 h)
    rw [← ho, hmask, and_ones_seven]
  · obtain ⟨-, -, -, -, -, ho⟩ := and_eq_iff_fields.1 (OpcodeRow.matchesWord_lenient_iff.1 h)
    rw [← hlbits, ← ho, hlmask, and_ones_seven]

/-- Only the rows of the word's own opcode can match it. -/
theorem Decoded.AgreesWith.of_opcode {d : Decoded} {op : BitVec 7} (ho : opcodeOf w = op)
    (h : d.AgreesWith p w (rowsOfOpcode op)) : d.AgreesWith p w opcodeRows := by
  intro m
  rw [h m]
  constructor
  · rintro ⟨r, hr, hmatch⟩
    exact ⟨r, List.mem_of_mem_filter hr, hmatch⟩
  · rintro ⟨r, hr, hmatch, hname⟩
    have hop : opcodeOf r.bits = op := (opcodeOf_of_matchesWord hr hmatch).trans ho
    exact ⟨r, List.mem_filter.2 ⟨hr, beq_iff_eq.2 hop⟩, hmatch, hname⟩

/-- The opcodes of the table: the nine of R71 and those of the named words of R201 to R205. -/
theorem opcodeRows_opcode_mem : ∀ r ∈ opcodeRows,
    opcodeOf r.bits ∈ Machine.recognizedOpcodes ++ [0b0001111#7, 0b1110011#7] := by
  decide

/-- A rejection agrees with the table when no row has the word's opcode (R199). -/
theorem rejected_agrees (r : Reject) (ho : opcodeOf w ∉ Machine.recognizedOpcodes ++ [0b0001111#7, 0b1110011#7]) :
    (Decoded.rejected r).AgreesWith p w opcodeRows := by
  intro m
  refine ⟨nofun, fun ⟨r, hr, hmatch, _⟩ => absurd ?_ ho⟩
  rw [← opcodeOf_of_matchesWord hr hmatch]
  exact opcodeRows_opcode_mem r hr

/-! Each opcode's agreement splits on the values of the selector fields its rows look at; in each case every row's condition
is decided, and so is what the decoder answers. -/

theorem lui_agrees (ho : opcodeOf w = 0b0110111#7) :
    (Decoded.instr (.lui (rdOf w) (immUOf w))).AgreesWith p w (rowsOfOpcode 0b0110111#7) := by
  have hrows : rowsOfOpcode 0b0110111#7 = [.both "LUI" 0x00000037 0x0000007F] := rfl
  simp [Decoded.AgreesWith, hrows, Instr.mnemonic, and_eq_iff_fields, ho]

theorem auipc_agrees (ho : opcodeOf w = 0b0010111#7) :
    (Decoded.instr (.auipc (rdOf w) (immUOf w))).AgreesWith p w (rowsOfOpcode 0b0010111#7) := by
  have hrows : rowsOfOpcode 0b0010111#7 = [.both "AUIPC" 0x00000017 0x0000007F] := rfl
  simp [Decoded.AgreesWith, hrows, Instr.mnemonic, and_eq_iff_fields, ho]

theorem jal_agrees (ho : opcodeOf w = 0b1101111#7) :
    (Decoded.instr (.jal (rdOf w) (offJOf w))).AgreesWith p w (rowsOfOpcode 0b1101111#7) := by
  have hrows : rowsOfOpcode 0b1101111#7 = [.both "JAL" 0x0000006F 0x0000007F] := rfl
  simp [Decoded.AgreesWith, hrows, Instr.mnemonic, and_eq_iff_fields, ho]

theorem decodeJalr_agrees (ho : opcodeOf w = 0b1100111#7) :
    (decodeJalr p w).AgreesWith p w (rowsOfOpcode 0b1100111#7) := by
  have hrows : rowsOfOpcode 0b1100111#7 = [⟨"JALR", 0x00000067, 0x0000707F, 0x00000067, 0x0000007F⟩] := rfl
  cases p <;> by_cases h3 : funct3Of w = 0b000#3 <;>
    simp [Decoded.AgreesWith, hrows, decodeJalr, Instr.mnemonic, and_eq_iff_fields, ho, h3]

/-- The funct7 codes of R72, and all others. -/
theorem funct7_cases (f : BitVec 7) : f = 0b0000000#7 ∨ f = 0b0100000#7 ∨ (f ≠ 0b0000000#7 ∧ f ≠ 0b0100000#7) := by
  tauto

theorem decodeOpImm_agrees (ho : opcodeOf w = 0b0010011#7) :
    (decodeOpImm p w).AgreesWith p w (rowsOfOpcode 0b0010011#7) := by
  have hrows : rowsOfOpcode 0b0010011#7 = rowsOpImm := rfl
  cases p with
  | strict =>
    rcases funct7_cases (funct7Of w) with h7 | h7 | h7 <;>
    rcases funct3_cases (funct3Of w) with h3 | h3 | h3 | h3 | h3 | h3 | h3 | h3 <;>
      simp [Decoded.AgreesWith, hrows, rowsOpImm, decodeOpImm, selectAlt_strict, Instr.mnemonic, and_eq_iff_fields, ho,
        h3, h7]
  | lenient =>
    cases h30 : (funct7Of w)[5] <;>
    rcases funct3_cases (funct3Of w) with h3 | h3 | h3 | h3 | h3 | h3 | h3 | h3 <;>
      simp [Decoded.AgreesWith, hrows, rowsOpImm, decodeOpImm, selectAlt_lenient, Instr.mnemonic, and_eq_iff_fields, ho,
        h3, h30]

theorem decodeOp_agrees (ho : opcodeOf w = 0b0110011#7) :
    (decodeOp p w).AgreesWith p w (rowsOfOpcode 0b0110011#7) := by
  have hrows : rowsOfOpcode 0b0110011#7 = rowsOp := rfl
  cases p with
  | strict =>
    rcases funct7_cases (funct7Of w) with h7 | h7 | h7 <;>
    rcases funct3_cases (funct3Of w) with h3 | h3 | h3 | h3 | h3 | h3 | h3 | h3 <;>
      simp [Decoded.AgreesWith, hrows, rowsOp, decodeOp, selectAlt_strict, Instr.mnemonic, and_eq_iff_fields, ho,
        h3, h7]
  | lenient =>
    cases h30 : (funct7Of w)[5] <;>
    rcases funct3_cases (funct3Of w) with h3 | h3 | h3 | h3 | h3 | h3 | h3 | h3 <;>
      simp [Decoded.AgreesWith, hrows, rowsOp, decodeOp, selectAlt_lenient, Instr.mnemonic, and_eq_iff_fields, ho,
        h3, h30]

theorem decodeBranch_agrees (ho : opcodeOf w = 0b1100011#7) :
    (decodeBranch w).AgreesWith p w (rowsOfOpcode 0b1100011#7) := by
  have hrows : rowsOfOpcode 0b1100011#7 = rowsBranch := rfl
  rcases funct3_cases (funct3Of w) with h3 | h3 | h3 | h3 | h3 | h3 | h3 | h3 <;>
    simp [Decoded.AgreesWith, hrows, rowsBranch, decodeBranch, Instr.mnemonic, and_eq_iff_fields, ho, h3]

theorem decodeLoad_agrees (ho : opcodeOf w = 0b0000011#7) :
    (decodeLoad w).AgreesWith p w (rowsOfOpcode 0b0000011#7) := by
  have hrows : rowsOfOpcode 0b0000011#7 = rowsLoadStore.take 5 := rfl
  rcases funct3_cases (funct3Of w) with h3 | h3 | h3 | h3 | h3 | h3 | h3 | h3 <;>
    simp [Decoded.AgreesWith, hrows, rowsLoadStore, decodeLoad, Instr.mnemonic, and_eq_iff_fields, ho, h3]

theorem decodeStore_agrees (ho : opcodeOf w = 0b0100011#7) :
    (decodeStore w).AgreesWith p w (rowsOfOpcode 0b0100011#7) := by
  have hrows : rowsOfOpcode 0b0100011#7 = rowsLoadStore.drop 5 := rfl
  rcases funct3_cases (funct3Of w) with h3 | h3 | h3 | h3 | h3 | h3 | h3 | h3 <;>
    simp [Decoded.AgreesWith, hrows, rowsLoadStore, decodeStore, Instr.mnemonic, and_eq_iff_fields, ho, h3]

theorem decodeMiscMem_agrees (ho : opcodeOf w = 0b0001111#7) :
    (decodeMiscMem w).AgreesWith p w (rowsOfOpcode 0b0001111#7) := by
  have hrows : rowsOfOpcode 0b0001111#7 = rowsSystem.take 2 := rfl
  rcases funct3_cases (funct3Of w) with h3 | h3 | h3 | h3 | h3 | h3 | h3 | h3 <;>
    simp [Decoded.AgreesWith, hrows, rowsSystem, decodeMiscMem, Instr.mnemonic, and_eq_iff_fields, ho, h3]

theorem ne_of_funct3Of_ne {v : Word} (h : funct3Of w ≠ funct3Of v) : w ≠ v := mt (congrArg funct3Of) h

theorem decodePriv_agrees (ho : opcodeOf w = 0b1110011#7) (h3 : funct3Of w = 0b000#3) :
    (decodePriv w).AgreesWith p w (rowsSystem.drop 2) := by
  rw [decodePriv]
  split_ifs with hecall hebreak hmret hsret hwfi hsfence
  iterate 5
    · subst w
      simp [Decoded.AgreesWith, rowsSystem, Instr.mnemonic]
  · simp [Decoded.AgreesWith, rowsSystem, Instr.mnemonic, and_eq_iff_fields, ho, h3, hsfence, hecall, hebreak, hmret,
      hsret, hwfi]
  · simpa [Decoded.AgreesWith, rowsSystem, and_eq_iff_fields, ho, h3, hecall, hebreak, hmret, hsret, hwfi] using hsfence

theorem decodeSystem_agrees (ho : opcodeOf w = 0b1110011#7) :
    (decodeSystem w).AgreesWith p w (rowsOfOpcode 0b1110011#7) := by
  have hrows : rowsOfOpcode 0b1110011#7 = rowsSystem.drop 2 := rfl
  rcases funct3_cases (funct3Of w) with h3 | h3 | h3 | h3 | h3 | h3 | h3 | h3
  · rw [hrows, decodeSystem, if_pos h3]
    exact decodePriv_agrees ho h3
  all_goals
    simp [Decoded.AgreesWith, hrows, rowsSystem, decodeSystem, Instr.mnemonic, and_eq_iff_fields, ne_of_funct3Of_ne,
      ho, h3]

/-- The decoder agrees with the table at every opcode. -/
theorem decodeWith_agrees (p : DecodeMode) (w : Word) : (decodeWith p w).AgreesWith p w opcodeRows := by
  rcases decodeWith_cases p w with ⟨o, e⟩ | ⟨o, e⟩ | ⟨o, e⟩ | ⟨o, e⟩ | ⟨o, e⟩ | ⟨o, e⟩ | ⟨o, e⟩ | ⟨o, e⟩ | ⟨o, e⟩ |
      ⟨o, e⟩ | ⟨o, e⟩ | ⟨o1, o2, o3, o4, o5, o6, o7, o8, o9, o10, o11, e⟩ <;> rw [e]
  · exact (lui_agrees o).of_opcode o
  · exact (auipc_agrees o).of_opcode o
  · exact (jal_agrees o).of_opcode o
  · exact (decodeJalr_agrees o).of_opcode o
  · exact (decodeOpImm_agrees o).of_opcode o
  · exact (decodeOp_agrees o).of_opcode o
  · exact (decodeBranch_agrees o).of_opcode o
  · exact (decodeLoad_agrees o).of_opcode o
  · exact (decodeStore_agrees o).of_opcode o
  · exact (decodeMiscMem_agrees o).of_opcode o
  · exact (decodeSystem_agrees o).of_opcode o
  · exact rejected_agrees _ (by simp [Machine.recognizedOpcodes, *])

/-- Settles O10: the agreement of decoder and table, opcode by opcode. -/
theorem decoderAgreesWithOpcodeTable : Obligations.DecoderAgreesWithOpcodeTable := by
  intro p w m
  rw [← Decoded.mnemonic_eq_some_iff]
  exact decodeWith_agrees p w m

theorem opcodeRows_mnemonic_nodup : (opcodeRows.map OpcodeRow.mnemonic).Nodup := by
  decide

/-- Settles O11: two rows that match a word both carry the mnemonic of what it decodes to, and no two rows share one. -/
theorem opcodeRowsNeverOverlap : Obligations.OpcodeRowsNeverOverlap := by
  intro p w r hr q hq hmr hmq
  have hdr : (decodeWith p w).mnemonic = some r.mnemonic := (decodeWith_agrees p w _).2 ⟨r, hr, hmr, rfl⟩
  have hdq : (decodeWith p w).mnemonic = some q.mnemonic := (decodeWith_agrees p w _).2 ⟨q, hq, hmq, rfl⟩
  have hname : r.mnemonic = q.mnemonic := Option.some.inj (hdr.symm.trans hdq)
  exact List.inj_on_of_nodup_map opcodeRows_mnemonic_nodup hr hq hname

end Sys2Proof

namespace Sys2Proof.Machine

variable {p : DecodeMode} {w : Word}

/-! ## What LENIENT executes (R75) -/

theorem statusOfDecoded_eq_executed {d : Decoded} (h : statusOfDecoded d = .executed) :
    ∃ i, d = .instr i ∧ statusOfInstr i = .executed := by
  cases d with
  | instr i => exact ⟨i, rfl, h⟩
  | rejected r => cases h

theorem statusOfDecoded_decodeJalr_lenient (w : Word) : statusOfDecoded (decodeJalr .lenient w) = .executed := by
  rw [decodeJalr]
  split <;> rfl

theorem statusOfDecoded_decodeOpImm_lenient (w : Word) : statusOfDecoded (decodeOpImm .lenient w) = .executed := by
  simp only [decodeOpImm, selectAlt_lenient, Bool.true_and]
  split_ifs
  case neg => cases (funct7Of w).getLsbD 5 <;> rfl
  all_goals rfl

theorem statusOfDecoded_decodeOp_lenient (w : Word) : statusOfDecoded (decodeOp .lenient w) = .executed := by
  simp only [decodeOp, selectAlt_lenient]
  split_ifs <;> rfl

/-- Settles O13: under LENIENT a function code always selects an operation, and JALR looks at none. -/
theorem lenientExecutesEveryAluAndJalrWord : Obligations.LenientExecutesEveryAluAndJalrWord := by
  intro w hop
  apply statusOfDecoded_eq_executed
  obtain ho | ho | ho := hop
  · rw [decodeWith_of_op ho, statusOfDecoded_decodeOp_lenient]
  · rw [decodeWith_of_opImm ho, statusOfDecoded_decodeOpImm_lenient]
  · rw [decodeWith_of_jalr ho, statusOfDecoded_decodeJalr_lenient]

/-! ## The words R73 lists are no-ops -/

theorem statusOfDecoded_decodeLoad (w : Word) : statusOfDecoded (decodeLoad w) = .unimplemented := by
  simp only [decodeLoad]
  split_ifs <;> rfl

theorem statusOfDecoded_decodeStore (w : Word) : statusOfDecoded (decodeStore w) = .unimplemented := by
  simp only [decodeStore]
  split_ifs <;> rfl

theorem statusOfDecoded_decodeMiscMem (w : Word) : statusOfDecoded (decodeMiscMem w) = .unimplemented := by
  simp only [decodeMiscMem]
  split_ifs <;> rfl

theorem statusOfDecoded_decodeSystem (w : Word) : statusOfDecoded (decodeSystem w) = .unimplemented := by
  simp only [decodeSystem, decodePriv]
  split_ifs <;> rfl

/-- An opcode outside the nine is that of a named word of R201 to R205, or of no row (R199). -/
theorem statusOfDecoded_of_not_recognized (h : opcodeOf w ∉ recognizedOpcodes) :
    statusOfDecoded (decodeWith p w) = .unimplemented := by
  by_cases hmisc : opcodeOf w = 0b0001111#7
  · rw [decodeWith_of_miscMem hmisc, statusOfDecoded_decodeMiscMem]
  by_cases hsys : opcodeOf w = 0b1110011#7
  · rw [decodeWith_of_system hsys, statusOfDecoded_decodeSystem]
  simp only [recognizedOpcodes, List.mem_cons, List.not_mem_nil, or_false, not_or] at h
  obtain ⟨h1, h2, h3, h4, h5, h6, h7, h8, h9⟩ := h
  rw [decodeWith_of_other h1 h2 h3 h4 h5 h6 h7 h8 h9 hmisc hsys]
  rfl

/-- STRICT rejects what is not canonical (R74). -/
theorem decodeWith_strict_of_not_canonical (h : ¬ strictCanonical w) : ∃ r, decodeWith .strict w = .rejected r := by
  simp only [strictCanonical, not_and_or, Classical.not_imp, not_or] at h
  obtain ⟨ho, h0, halt⟩ | ⟨ho, h3, h0⟩ | ⟨ho, h3, h0, halt⟩ | ⟨ho, h3⟩ := h
  · have hsel : selectAlt .strict (funct3Of w == 0b000#3 || funct3Of w == 0b101#3) (funct7Of w) = none := by
      rw [selectAlt_strict, if_neg h0, if_neg]
      simpa [or_comm, imp_iff_not_or] using halt
    exact ⟨.opFunct7, by simp [decodeWith_of_op ho, decodeOp, hsel]⟩
  · exact ⟨.shiftFunct7, by simp [decodeWith_of_opImm ho, decodeOpImm, selectAlt_strict, h3, h0]⟩
  · exact ⟨.shiftFunct7, by simp [decodeWith_of_opImm ho, decodeOpImm, selectAlt_strict, h3, h0, halt]⟩
  · exact ⟨.jalrFunct3, by simp [decodeWith_of_jalr ho, decodeJalr, h3]⟩

theorem statusOfDecoded_of_unimplementedWord (h : unimplementedWord p w) :
    statusOfDecoded (decodeWith p w) = .unimplemented := by
  obtain hop | ho | ho | ⟨ho, h3⟩ | ⟨rfl, hcanon⟩ := h
  · exact statusOfDecoded_of_not_recognized hop
  · rw [decodeWith_of_load ho, statusOfDecoded_decodeLoad]
  · rw [decodeWith_of_store ho, statusOfDecoded_decodeStore]
  · have hrej : decodeBranch w = .rejected .branchFunct3 := by
      obtain h3 | h3 := h3 <;> simp [decodeBranch, h3]
    rw [decodeWith_of_branch ho, hrej]
    rfl
  · obtain ⟨r, hr⟩ := decodeWith_strict_of_not_canonical hcanon
    rw [hr]
    rfl

/-- A step with status Unimplemented commits the empty effect after the advance (R73, R92). -/
theorem stepWith_of_unimplemented {s : State} (hf : s.fetch = some w)
    (h : statusOfDecoded (decodeWith p w) = .unimplemented) :
    stepWith p s = .next (s.advance.commit { reg := none, pc := none }) := by
  cases hd : decodeWith p w with
  | instr i =>
    rw [hd] at h
    rw [stepWith_of_instr p hf hd, exec_of_unimplemented i _ h]
  | rejected r => rw [stepWith_of_rejected p hf hd, execRejected_eq]

theorem State.advance_commit_onlyMovesPc (s : State) :
    s.OnlyMovesPc (s.advance.commit { reg := none, pc := none }) (s.pc + 1) :=
  ⟨fun r => by simp, by simp, by simp, fun k => by simp⟩

/-- Settles O32: each of these words has status Unimplemented, and such a step is the advance alone. -/
theorem unimplementedWordsAreNoOps : Obligations.UnimplementedWordsAreNoOps := by
  intro p s w hf hw
  have hstatus := statusOfDecoded_of_unimplementedWord hw
  refine ⟨⟨_, stepWith_of_unimplemented hf hstatus, s.advance_commit_onlyMovesPc⟩, ?_⟩
  rw [State.reportWith_of_fetch p hf, hstatus]

/-! ## Immediates bit by bit (R63 to R66) -/

/-- Bit `k` of a sign-extended value is its bit `k`, or its top bit (R12). -/
theorem getLsbD_signExtend_word {n k : Nat} (x : BitVec (n + 1)) (hk : k < 32) :
    (x.signExtend 32).getLsbD k = x.getLsbD (min k n) := by
  rw [BitVec.getLsbD_signExtend, BitVec.msb_eq_getLsbD_last, decide_eq_true hk, Bool.true_and, Nat.add_sub_cancel]
  split
  · rw [Nat.min_eq_left (by omega)]
  · rw [Nat.min_eq_right (by omega)]

theorem immI_getLsbD (w : Word) {k : Nat} (hk : k < 32) :
    (immI (immIOf w)).getLsbD k = if k < 12 then w.getLsbD (20 + k) else w.getLsbD 31 := by
  rw [immI, getLsbD_signExtend_word _ hk, immIOf, BitVec.getLsbD_extractLsb', decide_eq_true (by omega), Bool.true_and]
  split
  · rw [Nat.min_eq_left (by omega)]
  · rw [Nat.min_eq_right (by omega)]

theorem immU_getLsbD (w : Word) {k : Nat} (hk : k < 32) :
    (immU (immUOf w)).getLsbD k = if k < 12 then false else w.getLsbD k := by
  have hbit : (immU (immUOf w)).getLsbD k = (decide (12 ≤ k ∧ k < 12 + 20) && w.getLsbD k) :=
    place_extract w 12 20 k hk
  rw [hbit]
  split
  · rw [decide_eq_false (by omega), Bool.false_and]
  · rw [decide_eq_true (by omega), Bool.true_and]

/-- Settles O14: the upper immediate and the masked word have the same bits. -/
theorem defaultAndUpperImmediates : Obligations.DefaultAndUpperImmediates := by
  intro w
  refine ⟨fun k hk => immI_getLsbD w hk, fun k hk => immU_getLsbD w hk, ?_⟩
  apply BitVec.eq_of_getLsbD_eq
  intro k hk
  rw [immU_getLsbD w hk, BitVec.getLsbD_and]
  interval_cases k <;> simp

/-- Bit `j` of a slice `w[src+k-1:src]` placed at `dst` (R65, R66). -/
theorem getLsbD_place_extractLsb' {n dst src k j : Nat} (w : Word) (hj : j < n) :
    (place n dst (w.extractLsb' src k)).getLsbD j =
      (decide (dst ≤ j ∧ j < dst + k) && w.getLsbD (src + (j - dst))) := by
  rw [place, BitVec.getLsbD_shiftLeft, BitVec.getLsbD_setWidth, BitVec.getLsbD_extractLsb']
  grind

theorem offJOf_getLsbD (w : Word) {k : Nat} (hk : k < 21) : (offJOf w).getLsbD k =
    if k = 0 then false else if k ≤ 10 then w.getLsbD (20 + k) else if k = 11 then w.getLsbD 20
    else if k ≤ 19 then w.getLsbD k else w.getLsbD 31 := by
  simp only [offJOf, BitVec.getLsbD_or, getLsbD_place_extractLsb' w hk]
  interval_cases k <;> simp

theorem offBOf_getLsbD (w : Word) {k : Nat} (hk : k < 13) : (offBOf w).getLsbD k =
    if k = 0 then false else if k ≤ 4 then w.getLsbD (7 + k) else if k ≤ 10 then w.getLsbD (20 + k)
    else if k = 11 then w.getLsbD 7 else w.getLsbD 31 := by
  simp only [offBOf, BitVec.getLsbD_or, getLsbD_place_extractLsb' w hk]
  interval_cases k <;> simp

theorem toInt_emod_two_of_even {n : Nat} (x : BitVec (n + 1)) (h : x.getLsbD 0 = false) : x.toInt % 2 = 0 := by
  have heven : x.toNat % 2 = 0 := by simpa [BitVec.getLsbD] using h
  rw [BitVec.toInt_eq_toNat_cond, Nat.pow_succ]
  split <;> omega

/-- An even offset lies two short of the power of 2 above it (R65, R66). -/
theorem toInt_signExtend_bounds_of_even {n : Nat} (hn : n + 2 ≤ 32) (x : BitVec (n + 2)) (h : x.getLsbD 0 = false) :
    -2 ^ (n + 1) ≤ (x.signExtend 32).toInt ∧ (x.signExtend 32).toInt ≤ 2 ^ (n + 1) - 2 := by
  rw [BitVec.toInt_signExtend_of_le hn]
  have hlo : -2 ^ (n + 1) ≤ x.toInt := x.le_toInt
  have hhi : x.toInt < 2 ^ (n + 1) := x.toInt_lt
  have heven := toInt_emod_two_of_even x h
  rw [pow_succ] at hlo hhi ⊢
  omega

/-- Settles O15: the offset's bits, its top bit repeated, and its range as an even number. -/
theorem jumpAndBranchImmediates : Obligations.JumpAndBranchImmediates := by
  intro w
  have hJ := toInt_signExtend_bounds_of_even (n := 19) (by decide) (offJOf w) (by simp)
  have hB := toInt_signExtend_bounds_of_even (n := 11) (by decide) (offBOf w) (by simp)
  refine ⟨fun k hk => ?_, hJ, fun k hk => ?_, hB⟩
  · rw [immJ, getLsbD_signExtend_word _ hk, offJOf_getLsbD w (by omega)]
    grind
  · rw [immB, getLsbD_signExtend_word _ hk, offBOf_getLsbD w (by omega)]
    grind

end Sys2Proof.Machine
end

section
/-! Proofs of the statements of 40_fetch_and_sequencing.md: Running and Halted (R90, R102), one step and its report (R91 to
R99), and RUN as one operation and as moves of core and host (R100, R106). -/

namespace Sys2Proof.Machine

variable {p : DecodeMode} {s t : State} {w : Word}

/-! ## Running and Halted (R90) -/

theorem State.running_eq_false_iff (s : State) : s.running = false ↔ s.capacity ≤ s.pc.toNat := by
  rw [← Bool.not_eq_true, State.running_iff, Nat.not_lt]

/-- A Running core fetches the word at pc (R91). -/
theorem State.fetch_of_running (h : s.pc.toNat < s.capacity) : s.fetch = some (Memory.read s.store s.pc.toNat) :=
  (s.fetch_eq_some _).2 ⟨h, rfl⟩

/-- A Halted core has no step (R102). -/
theorem stepWith_of_halted (p : DecodeMode) (h : s.capacity ≤ s.pc.toNat) : stepWith p s = .fault .halted :=
  stepWith_of_fetch_none p (s.fetch_eq_none.2 h)

/-! ## One step (R91 to R99) -/

/-- Whatever the word fetched, the step is completed (R104, R220). -/
theorem stepWith_of_fetch (p : DecodeMode) (hf : s.fetch = some w) :
    ∃ e : Effect, stepWith p s = .next (s.advance.commit e) := by
  cases hd : decodeWith p w with
  | instr i =>
    rw [stepWith_of_instr p hf hd]
    exact exec_commits i s.advance
  | rejected r => exact ⟨_, (stepWith_of_rejected p hf hd).trans (execRejected_eq r s.advance)⟩

/-- Settles O30: a Running core fetches some word, and the step of any word is completed. -/
theorem runningCoreAlwaysCompletesItsStep : Obligations.RunningCoreAlwaysCompletesItsStep := by
  refine fun p s => ⟨fun hrun => ?_, stepWith_of_halted p⟩
  obtain ⟨e, he⟩ := stepWith_of_fetch p (State.fetch_of_running hrun)
  exact ⟨_, he⟩

/-- Settles O29: a Running core fetches the word at pc, and the step is what the word decodes to. -/
theorem stepRunsTheDecodedInstruction : Obligations.StepRunsTheDecodedInstruction := by
  refine ⟨fun _ => rfl, fun s => ⟨by simp, by simp, by simp, by simp⟩, fun p s hrun => ?_⟩
  have hf := State.fetch_of_running hrun
  exact ⟨fun i hd => stepWith_of_instr p hf hd, fun r hd => stepWith_of_rejected p hf hd⟩

/-- The mask of JALR's target is the complement of 1 (R121). -/
theorem jalrTarget_eq (a : Word) (imm : BitVec 12) :
    jalrTarget a imm = ((a + imm.signExtend 32) &&& ~~~1#32) >>> 2 := rfl

/-- Settles O38: the cases of where a step leaves pc. -/
theorem pcGoesToTheNextWordOrATarget : Obligations.PcGoesToTheNextWordOrATarget := by
  intro p s t w hf h
  rw [← jalrTarget_eq]
  exact stepWith_pc_cases hf h

/-! ## The Halted state is absorbing (R102) -/

@[simp] theorem State.load_pc (words : List Word) (s : State) : (s.load words).2.pc = s.pc := by
  rw [State.load]
  split <;> rfl

@[simp] theorem State.load_capacity (words : List Word) (s : State) : (s.load words).2.capacity = s.capacity := by
  rw [State.load]
  split <;> rfl

theorem State.load_running (words : List Word) (s : State) : (s.load words).2.running = s.running := by
  simp [State.running]

/-- What an accepted RESET leaves (R240). -/
theorem State.eq_construct_of_resetTo {c : Nat} (h : State.resetTo c = some s) : s = State.construct c := by
  rw [State.resetTo, Option.ite_none_right_eq_some] at h
  exact (Option.some.inj h.2).symm

/-- Settles O31: Halted there is no step, and LOAD touches neither pc nor the capacity. -/
theorem haltedIsAbsorbing : Obligations.HaltedIsAbsorbing := by
  refine ⟨fun s hhalt => ⟨fun p t h => ?_, fun words => ⟨s.load_pc words, ?_⟩⟩, fun c s h => ?_⟩
  · rw [stepWith_of_halted p hhalt] at h
    cases h
  · rw [State.load_running, s.running_eq_false_iff.2 hhalt]
  · rw [State.eq_construct_of_resetTo h, State.construct_pc]

/-! ## The status of a step (R98) -/

theorem statusOfDecoded_decodeBranch (h2 : funct3Of w ≠ 0b010#3) (h3 : funct3Of w ≠ 0b011#3) :
    statusOfDecoded (decodeBranch w) = .executed := by
  rcases funct3_cases (funct3Of w) with h | h | h | h | h | h | h | h
  case inr.inr.inl => exact absurd h h2
  case inr.inr.inr.inl => exact absurd h h3
  all_goals
    simp only [decodeBranch, h, BitVec.reduceEq, reduceIte]
    rfl

/-- A word that R98 does not list decodes under both modes as it does under LENIENT. -/
theorem decodeWith_eq_lenient (h : ¬ unimplementedWord p w) : decodeWith p w = decodeWith .lenient w := by
  cases p with
  | lenient => rfl
  | strict =>
    have hcanon : strictCanonical w := by
      by_contra hc
      exact h (.inr (.inr (.inr (.inr ⟨rfl, hc⟩))))
    exact canonicalWordsDecodeAlike w hcanon

/-- A word that R98 does not list has one of the seven opcodes that are executed, and LENIENT selects an operation there. -/
theorem statusOfDecoded_of_not_unimplementedWord (h : ¬ unimplementedWord p w) :
    statusOfDecoded (decodeWith p w) = .executed := by
  rw [decodeWith_eq_lenient h]
  simp only [unimplementedWord, not_or, not_and, not_not] at h
  obtain ⟨hop, hload, hstore, hbranch, -⟩ := h
  simp only [recognizedOpcodes, List.mem_cons, List.not_mem_nil, or_false] at hop
  obtain ho | ho | ho | ho | ho | ho | ho | ho | ho := hop
  · rw [decodeWith_of_lui ho]; rfl
  · rw [decodeWith_of_auipc ho]; rfl
  · rw [decodeWith_of_jal ho]; rfl
  · rw [decodeWith_of_jalr ho, statusOfDecoded_decodeJalr_lenient]
  · rw [decodeWith_of_opImm ho, statusOfDecoded_decodeOpImm_lenient]
  · rw [decodeWith_of_op ho, statusOfDecoded_decodeOp_lenient]
  · obtain ⟨h2, h3⟩ := hbranch ho
    rw [decodeWith_of_branch ho, statusOfDecoded_decodeBranch h2 h3]
  · exact absurd ho hload
  · exact absurd ho hstore

/-- A Halted core has no report, since it has no step (R90, R98). -/
theorem State.reportWith_of_fetch_none (p : DecodeMode) (hf : s.fetch = none) : s.reportWith p = none := by
  rw [State.reportWith, hf]

/-- Settles O33: the report carries the status of what the word decodes to. -/
theorem everyStepReportsItsStatus : Obligations.EveryStepReportsItsStatus := by
  refine fun p s => ⟨fun w hf => ⟨_, State.reportWith_of_fetch p hf, ?_, ?_⟩, State.reportWith_of_fetch_none p⟩
  · exact statusOfDecoded_of_unimplementedWord
  · exact statusOfDecoded_of_not_unimplementedWord

/-! ## RUN without fuel (R100, R106) -/

/-- RUN from the first state returns in the second, after steps with these reports. -/
inductive State.RunsWith : State → State → List Report → Prop where
  /-- Halted: RUN returns (R106). -/
  | halted {s : State} (h : s.running = false) : RunsWith s s []
  /-- Running: RUN takes one step and goes on (R100). -/
  | step {s t u : State} {r : Report} {rs : List Report} (h : s.running = true) (hs : step s = .next t)
      (hr : s.report = some r) (hu : RunsWith t u rs) : RunsWith s u (r :: rs)

theorem State.runFor_zero_of_running (h : s.running = true) : State.runFor 0 s = .outOfFuel s [] := by
  simp [State.runFor, h]

theorem State.runsWith_of_runFor {n : Nat} {rs : List Report} (h : State.runFor n s = .halted t rs) : s.RunsWith t rs := by
  induction n generalizing s rs with
  | zero =>
    cases hrun : s.running
    · rw [State.runFor_of_halted 0 hrun] at h
      cases h
      exact .halted hrun
    · rw [State.runFor_zero_of_running hrun] at h
      cases h
  | succ n ih =>
    cases hrun : s.running
    · rw [State.runFor_of_halted _ hrun] at h
      cases h
      exact .halted hrun
    · obtain ⟨u, r, hs, hr⟩ := step_of_running hrun
      rw [State.runFor_succ n hrun hs hr] at h
      cases hu : State.runFor n u <;> rw [hu] at h <;> cases h
      exact .step hrun hs hr (ih hu)

/-- Fuel for every step is enough. -/
theorem State.RunsWith.runFor {n : Nat} {rs : List Report} (h : s.RunsWith t rs) (hn : rs.length ≤ n) :
    State.runFor n s = .halted t rs := by
  induction h generalizing n with
  | halted hrun => exact State.runFor_of_halted n hrun
  | step hrun hs hr _ ih =>
    obtain ⟨n, rfl⟩ := Nat.exists_eq_add_one_of_ne_zero (Nat.ne_zero_of_lt hn)
    rw [State.runFor_succ n hrun hs hr, ih (Nat.le_of_succ_le_succ hn)]

theorem State.RunsWith.running_eq_false {rs : List Report} (h : s.RunsWith t rs) : t.running = false := by
  induction h with
  | halted hrun => exact hrun
  | step _ _ _ _ ih => exact ih

/-- RUN is deterministic. -/
theorem State.RunsWith.unique {u : State} {rs rs' : List Report} (h : s.RunsWith t rs) (h' : s.RunsWith u rs') :
    t = u ∧ rs = rs' := by
  induction h generalizing rs' with
  | halted hrun =>
    cases h' with
    | halted => exact ⟨rfl, rfl⟩
    | step hrun' => cases hrun.symm.trans hrun'
  | step hrun hs hr _ ih =>
    cases h' with
    | halted hrun' => cases hrun.symm.trans hrun'
    | step _ hs' hr' hu' =>
      cases hs.symm.trans hs'
      cases hr.symm.trans hr'
      obtain ⟨rfl, rfl⟩ := ih hu'
      exact ⟨rfl, rfl⟩

/-- Settles O45: with any fuel it is the one RUN. -/
theorem runResultDoesNotDependOnFuel : Obligations.RunResultDoesNotDependOnFuel :=
  fun _ _ _ _ _ _ _ h h' => (State.runsWith_of_runFor h).unique (State.runsWith_of_runFor h')

/-- RUN with fuel returns, or has taken a step for all its fuel and is Running still. -/
theorem State.runFor_cases (n : Nat) (s : State) : (∃ t rs, State.runFor n s = .halted t rs) ∨
    ∃ t rs, State.runFor n s = .outOfFuel t rs ∧ t.running = true ∧ rs.length = n := by
  induction n generalizing s with
  | zero =>
    cases hrun : s.running
    · exact .inl ⟨_, _, State.runFor_of_halted 0 hrun⟩
    · exact .inr ⟨_, _, State.runFor_zero_of_running hrun, hrun, rfl⟩
  | succ n ih =>
    cases hrun : s.running
    · exact .inl ⟨_, _, State.runFor_of_halted _ hrun⟩
    · obtain ⟨u, r, hs, hr⟩ := step_of_running hrun
      rw [State.runFor_succ n hrun hs hr]
      obtain ⟨t, rs, hu⟩ | ⟨t, rs, hu, ht, hlen⟩ := ih u <;> rw [hu]
      · exact .inl ⟨_, _, rfl⟩
      · exact .inr ⟨_, _, rfl, ht, congrArg (· + 1) hlen⟩

/-- Settles O44: RUN returns Halted, where another RUN returns at once, or its fuel ran out. -/
theorem runReturnsOnlyWhenHalted : Obligations.RunReturnsOnlyWhenHalted := by
  intro n s
  obtain ⟨t, rs, h⟩ | ⟨t, rs, h, ht, hlen⟩ := State.runFor_cases n s
  · have ht := (State.runsWith_of_runFor h).running_eq_false
    exact .inl ⟨t, rs, h, t.running_eq_false_iff.1 ht, fun more => State.runFor_of_halted more ht⟩
  · exact .inr ⟨t, rs, h, t.running_iff.1 ht, hlen⟩

/-! ## RUN as moves of core and host (R90, R246) -/

/-- Settles O49: outside a RUN there is no step, and inside it the Running core has one. -/
theorem stepIsEnabledExactlyWhenRunningInARun : Obligations.StepIsEnabledExactlyWhenRunningInARun := by
  intro ⟨s, inRun⟩
  refine ⟨s.running_iff, s.running_eq_false_iff, ?_⟩
  cases inRun with
  | false => simp
  | true =>
    cases hrun : s.running with
    | false => simp [Session.move_step_of_halted hrun]
    | true =>
      obtain ⟨t, r, hs, hr⟩ := step_of_running hrun
      simp [Session.move_step hs hr]

section
variable {x y : Session} {m : HostMove} {a : Answer}

theorem Session.moves_cons_of_some (h : x.move m = some (a, y)) (ms : List HostMove) :
    Session.moves (m :: ms) x = (Session.moves ms y).map fun e => (a :: e.1, e.2) := by
  rw [Session.moves, h]

theorem Session.moves_cons_of_none (h : x.move m = none) (ms : List HostMove) : Session.moves (m :: ms) x = none := by
  rw [Session.moves, h]

end

/-- `n` steps of a RUN in progress and its return. -/
def stepsAndReturn (n : Nat) : List HostMove := List.replicate n HostMove.step ++ [.returnRun]

theorem stepsAndReturn_zero : stepsAndReturn 0 = [.returnRun] := rfl

theorem stepsAndReturn_succ (n : Nat) : stepsAndReturn (n + 1) = .step :: stepsAndReturn n := rfl

/-- A RUN's steps and its return are possible moves, and answer its reports. -/
theorem State.RunsWith.moves {rs : List Report} (h : s.RunsWith t rs) :
    Session.moves (stepsAndReturn rs.length) { core := s, inRun := true } =
      some (rs.map Answer.report ++ [.nothing], { core := t, inRun := false }) := by
  induction h with
  | halted hrun =>
    have hret := Session.move_returnRun.trans (if_neg (ne_true_of_eq_false hrun))
    exact Session.moves_cons_of_some hret []
  | step _ hs hr _ ih =>
    rw [List.length_cons, stepsAndReturn_succ, Session.moves_cons_of_some (Session.move_step hs hr), ih]
    rfl

/-- Only a RUN of `n` steps has `n` steps and a return as possible moves. -/
theorem State.runsWith_of_moves {n : Nat} {answers : List Answer} {y : Session}
    (h : Session.moves (stepsAndReturn n) { core := s, inRun := true } = some (answers, y)) :
    ∃ rs, s.RunsWith y.core rs ∧ rs.length = n := by
  induction n generalizing s answers with
  | zero =>
    rw [stepsAndReturn_zero] at h
    cases hrun : s.running with
    | true =>
      rw [Session.moves_cons_of_none (Session.move_returnRun.trans (if_pos hrun))] at h
      cases h
    | false =>
      rw [Session.moves_cons_of_some (Session.move_returnRun.trans (if_neg (ne_true_of_eq_false hrun)))] at h
      cases h
      exact ⟨[], .halted hrun, rfl⟩
  | succ n ih =>
    rw [stepsAndReturn_succ] at h
    cases hrun : s.running with
    | false =>
      rw [Session.moves_cons_of_none (Session.move_step_of_halted hrun)] at h
      cases h
    | true =>
      obtain ⟨u, r, hs, hr⟩ := step_of_running hrun
      rw [Session.moves_cons_of_some (Session.move_step hs hr), Option.map_eq_some_iff] at h
      obtain ⟨e, he, hey⟩ := h
      cases hey
      obtain ⟨rs, hu, hlen⟩ := ih he
      exact ⟨r :: rs, .step hrun hs hr hu, congrArg (· + 1) hlen⟩

/-- The start of a RUN is always possible between RUNs, and answers nothing (R246). -/
theorem Session.moves_startRun (ms : List HostMove) : Session.moves (.startRun :: ms) { core := s, inRun := false } =
    (Session.moves ms { core := s, inRun := true }).map fun e => (.nothing :: e.1, e.2) :=
  Session.moves_cons_of_some Session.move_startRun ms

/-- Settles O48: after its start, RUN as moves and RUN with fuel for its steps are the same RUN. -/
theorem runIsItsStepsAndReturn : Obligations.RunIsItsStepsAndReturn := by
  constructor
  · intro n s t rs h
    rw [Session.moves_startRun]
    exact congrArg (Option.map _) (State.runsWith_of_runFor h).moves
  · intro n s answers y h
    rw [Session.moves_startRun, Option.map_eq_some_iff] at h
    obtain ⟨e, he, hey⟩ := h
    cases hey
    obtain ⟨rs, hrs, hlen⟩ := State.runsWith_of_moves he
    exact ⟨rs, hrs.runFor hlen.le, hlen⟩

end Sys2Proof.Machine
end

section
/-! Proofs of the statements of 41_upper_immediate.md: LUI (R110) and AUIPC (R111). Both rest on one fact about every
instruction that commits a register result. -/

namespace Sys2Proof.Machine

/-! ## One register result, committed (R95, R96, R97) -/

/-- Committing a register result changes that register and pc, and nothing else. -/
theorem State.commit_onlyWrites (rd : RegIx) (v : Word) (q : Option Word) (s : State) :
    s.OnlyWrites (s.commit { reg := some (rd, v), pc := q }) rd v (q.getD s.pc) :=
  ⟨fun r => s.commit_readReg_some rd r v q, by simp, by simp, fun k => by simp⟩

/-- An executed instruction that commits the register result `v s` and no new pc completes in every state. -/
theorem completes_of_commit_reg {i : Instr} {rd : RegIx} {v : State → Word} (hst : statusOfInstr i = .executed)
    (h : ∀ s, exec i s = .next (s.commit { reg := some (rd, v s), pc := none })) :
    Completes i .executed fun s t => s.OnlyWrites t rd (v s) s.pc :=
  ⟨hst, fun s => ⟨_, h s, s.commit_onlyWrites rd (v s) none⟩⟩

/-! ## The upper immediate as a number (R64) -/

theorem immU_eq_ofNat (imm : BitVec 20) : immU imm = BitVec.ofNat 32 (imm.toNat * 4096) := by
  apply BitVec.eq_of_toNat_eq
  simp [immU, Nat.shiftLeft_eq]

/-! ## LUI and AUIPC (R110, R111) -/

theorem lui_completes (rd : RegIx) (imm : BitVec 20) :
    Completes (.lui rd imm) .executed fun s t => s.OnlyWrites t rd (immU imm) s.pc :=
  completes_of_commit_reg rfl (exec_lui rd imm)

theorem auipc_completes (rd : RegIx) (imm : BitVec 20) :
    Completes (.auipc rd imm) .executed fun s t => s.OnlyWrites t rd (s.pc + immU imm) s.pc :=
  completes_of_commit_reg rfl (exec_auipc rd imm)

/-- Settles O17: LUI writes `immU`, which is the masked word (O14) and, as a number, the field times 2^12. -/
theorem luiWritesUpperImmediate : Obligations.LuiWritesUpperImmediate := by
  constructor
  · intro p w ho
    obtain ⟨-, -, hmask⟩ := defaultAndUpperImmediates w
    exact ⟨decodeWith_of_lui ho, hmask ▸ lui_completes (rdOf w) (immUOf w)⟩
  · intro rd imm
    exact immU_eq_ofNat imm ▸ lui_completes rd imm

/-- Settles O18: AUIPC writes pc' + `immU`, the upper immediate as a number being the field times 2^12. -/
theorem auipcAddsToAdvancedWordIndex : Obligations.AuipcAddsToAdvancedWordIndex :=
  ⟨fun _ _ ho => decodeWith_of_auipc ho, fun rd imm => immU_eq_ofNat imm ▸ auipc_completes rd imm⟩

end Sys2Proof.Machine
end

section
/-! Proofs of the statements of 42_jumps.md: JAL (R120) and JALR (R121), which both write the link and set pc, and the return
from one through the other. -/

namespace Sys2Proof.Machine

/-- An executed instruction that commits the register result `v s` and the new pc `q s` completes in every state. -/
theorem completes_of_commit_reg_pc {i : Instr} {rd : RegIx} {v q : State → Word} (hst : statusOfInstr i = .executed)
    (h : ∀ s, exec i s = .next (s.commit { reg := some (rd, v s), pc := some (q s) })) :
    Completes i .executed fun s t => s.OnlyWrites t rd (v s) (q s) :=
  ⟨hst, fun s => ⟨_, h s, s.commit_onlyWrites rd (v s) (some (q s))⟩⟩

/-! ## The targets (R69, R120, R121) -/

/-- JAL's target as a quarter of the offset, rounded down (92_eei_decisions.md D2). -/
theorem jalTarget_eq (pc' : Word) (off : BitVec 21) :
    jalTarget pc' off = (pc' - 1#32) + BitVec.ofInt 32 (off.toInt / 4) := by
  rw [jalTarget, immJ, floor4_signExtend (by decide)]
  rfl

/-- A right shift by 2 is the numbers' division by 4. -/
theorem ushiftRight_two_eq_ofNat (a : Word) : a >>> 2 = BitVec.ofNat 32 (a.toNat / 4) := by
  apply BitVec.eq_of_toNat_eq
  rw [BitVec.toNat_ushiftRight, BitVec.toNat_ofNat, Nat.shiftRight_eq_div_pow, Nat.mod_eq_of_lt (by omega)]

/-- Clearing bit 0 of JALR's sum has no effect: the division by 4 drops it. -/
theorem jalrTarget_eq_ushiftRight (a : Word) (imm : BitVec 12) : jalrTarget a imm = (a + immI imm) >>> 2 := by
  have hmask : 0xFFFFFFFE#32 >>> 2 = 0xFFFFFFFF#32 >>> 2 := by decide
  rw [jalrTarget, BitVec.ushiftRight_and_distrib, hmask, ← BitVec.ushiftRight_and_distrib, and_ones_word]

/-- Below 2^30 the link does not wrap (92_eei_decisions.md D3). -/
theorem link_toNat {pc' : Word} (h : pc'.toNat < 2 ^ 30) : (link pc').toNat = pc'.toNat * 4 := by
  have hfour : (4 : Word).toNat = 4 := rfl
  rw [link, BitVec.toNat_mul, hfour, Nat.mod_eq_of_lt (by omega)]

/-- JALR through a link that has not wrapped, with immediate 0, goes to the link's pc' (92_eei_decisions.md D3). -/
theorem jalrTarget_link {pc' : Word} (h : pc'.toNat < 2 ^ 30) : jalrTarget (link pc') 0#12 = pc' := by
  have himm : immI 0#12 = 0#32 := by decide
  rw [jalrTarget_eq_ushiftRight, himm, BitVec.add_zero, ushiftRight_two_eq_ofNat, link_toNat h,
    Nat.mul_div_cancel _ (by decide), BitVec.ofNat_toNat, BitVec.setWidth_eq]

/-! ## The return through a link (R120, R121) -/

/-- A JAL with a destination other than x0 leaves its link there (R120). -/
theorem readReg_of_exec_jal {rd : RegIx} {off : BitVec 21} {s t : State} (hrd : rd ≠ 0)
    (h : exec (.jal rd off) s = .next t) : t.readReg rd = link s.pc := by
  rw [exec_jal] at h
  cases h
  rw [State.commit_readReg_some, if_neg hrd, if_pos rfl]

/-- A JALR leaves pc at its target (R121). -/
theorem pc_of_exec_jalr {rd rs1 : RegIx} {imm : BitVec 12} {s t : State} (h : exec (.jalr rd rs1 imm) s = .next t) :
    t.pc = jalrTarget (s.readReg rs1) imm := by
  rw [exec_jalr] at h
  cases h
  rw [State.commit_pc, Option.getD_some]

/-- Settles O40: the link is pc' * 4 without a wrap, and JALR divides it by 4 again. -/
theorem returnThroughLinkComesBack : Obligations.ReturnThroughLinkComesBack := by
  intro s t u v rd off hrd hpc hjal hlink hjalr
  calc v.pc = jalrTarget (u.readReg rd) 0#12 := pc_of_exec_jalr hjalr
    _ = jalrTarget (link s.pc) 0#12 := by rw [hlink, readReg_of_exec_jal hrd hjal]
    _ = s.pc := jalrTarget_link hpc

/-! ## JAL (R120) -/

theorem jal_completes (rd : RegIx) (off : BitVec 21) :
    Completes (.jal rd off) .executed fun s t => s.OnlyWrites t rd (link s.pc) (jalTarget s.pc off) :=
  completes_of_commit_reg_pc rfl (exec_jal rd off)

/-- Settles O19: JAL writes the link and goes to its target, a quarter of the offset away. -/
theorem jalLinksAndJumps : Obligations.JalLinksAndJumps := by
  refine ⟨fun _ _ ho => decodeWith_of_jal ho, fun rd off => ?_⟩
  simp only [← jalTarget_eq]
  exact jal_completes rd off

/-! ## JALR (R74, R75, R121) -/

theorem decodeWith_of_jalr_funct3_zero {w : Word} (p : DecodeMode) (ho : opcodeOf w = 0b1100111#7)
    (h3 : funct3Of w = 0b000#3) : decodeWith p w = .instr (.jalr (rdOf w) (rs1Of w) (immIOf w)) :=
  (decodeWith_of_jalr ho).trans (if_pos h3)

/-- LENIENT ignores JALR's funct3 (R75). -/
theorem decodeWith_lenient_of_jalr {w : Word} (ho : opcodeOf w = 0b1100111#7) :
    decodeWith .lenient w = .instr (.jalr (rdOf w) (rs1Of w) (immIOf w)) :=
  (decodeWith_of_jalr ho).trans (ite_self _)

/-- STRICT rejects a JALR word with a funct3 that is not canonical (R74). -/
theorem decodeWith_strict_of_jalr_funct3_ne {w : Word} (ho : opcodeOf w = 0b1100111#7) (h3 : funct3Of w ≠ 0b000#3) :
    ∃ r, decodeWith .strict w = .rejected r :=
  decodeWith_strict_of_not_canonical fun ⟨_, _, _, hjalr⟩ => h3 (hjalr ho)

theorem jalr_completes (rd rs1 : RegIx) (imm : BitVec 12) :
    Completes (.jalr rd rs1 imm) .executed fun s t =>
      s.OnlyWrites t rd (link s.pc) (jalrTarget (s.readReg rs1) imm) :=
  completes_of_commit_reg_pc rfl (exec_jalr rd rs1 imm)

/-- Settles O20: funct3 000 selects JALR, another one only under LENIENT, and JALR's target is computed from the old
register. -/
theorem jalrLinksAndJumpsToRegister : Obligations.JalrLinksAndJumpsToRegister := by
  refine ⟨fun w ho h3 => ?_, fun w ho h3 => ?_, fun rd rs1 imm => ?_⟩
  · exact ⟨iff_true_intro (decodeWith_of_jalr_funct3_zero .strict ho h3), iff_true_intro (decodeWith_lenient_of_jalr ho)⟩
  · exact ⟨decodeWith_strict_of_jalr_funct3_ne ho h3, decodeWith_lenient_of_jalr ho⟩
  · simp only [← ushiftRight_two_eq_ofNat, ← jalrTarget_eq]
    exact jalr_completes rd rs1 imm

end Sys2Proof.Machine
end

section
/-! Proofs of the statements of 43_alu_immediate.md: which words select an ALU operation (R72, R74, R75), and the register
result of each immediate operation (R130 to R138). SLT (R153) stands with SLTI. -/

namespace Sys2Proof.Machine

/-! ## Which words select an operation with a secondary function code (R74, R75) -/

/-- A funct3 without an alternative selects its operation under STRICT by funct7 0000000, and always under LENIENT. -/
theorem selectedWhen_of_no_alternative {op : BitVec 7} {f3 : BitVec 3} {mk : Word → Instr}
    (h : ∀ p w, opcodeOf w = op → funct3Of w = f3 →
      (decodeWith p w = .instr (mk w) ↔ (selectAlt p false (funct7Of w)).isSome = true)) :
    SelectedWhen op f3 (fun w => funct7Of w = 0b0000000#7) (fun _ => True) mk := by
  intro w ho h3
  rw [h .strict w ho h3, h .lenient w ho h3, selectAlt_strict, selectAlt_lenient]
  by_cases h7 : funct7Of w = 0b0000000#7 <;> simp [h7]

/-- LENIENT looks at bit 5 of funct7, which is `w[30]` (R75). -/
theorem funct7Of_getLsbD_five (w : Word) : (funct7Of w).getLsbD 5 = w.getLsbD 30 := by
  simp [funct7Of]

/-- A funct3 with an alternative selects the base operation (`b = false`) or the alternative (`b = true`) by its funct7 under
STRICT, and by `w[30]` under LENIENT. -/
theorem selectedWhen_of_alternative {op : BitVec 7} {f3 : BitVec 3} {mk : Word → Instr} (b : Bool)
    (h : ∀ p w, opcodeOf w = op → funct3Of w = f3 →
      (decodeWith p w = .instr (mk w) ↔ selectAlt p true (funct7Of w) = some b)) :
    SelectedWhen op f3 (fun w => funct7Of w = bif b then 0b0100000#7 else 0b0000000#7) (fun w => w.getLsbD 30 = b) mk := by
  intro w ho h3
  rw [h .strict w ho h3, h .lenient w ho h3, selectAlt_strict_eq_some, selectAlt_lenient, funct7Of_getLsbD_five]
  cases b <;> simp

/-! ## The words of the operations (R72) -/

/-- The OP-IMM words whose funct3 alone selects the operation. -/
theorem decodesTo_of_decodeOpImm {f3 : BitVec 3} {mk : Word → Instr}
    (h : ∀ p w, funct3Of w = f3 → decodeOpImm p w = .instr (mk w)) : DecodesTo 0b0010011#7 f3 mk :=
  fun p w ho h3 => (decodeWith_of_opImm ho).trans (h p w h3)

section
variable {w : Word}

theorem decodeWith_eq_slt_iff (p : DecodeMode) (ho : opcodeOf w = 0b0110011#7) (h3 : funct3Of w = 0b010#3) :
    decodeWith p w = .instr (.slt (rdOf w) (rs1Of w) (rs2Of w)) ↔ (selectAlt p false (funct7Of w)).isSome = true := by
  rw [decodeWith_of_op ho]
  cases hsel : selectAlt p false (funct7Of w) <;> simp [decodeOp, h3, hsel]

theorem decodeWith_eq_slli_iff (p : DecodeMode) (ho : opcodeOf w = 0b0010011#7) (h3 : funct3Of w = 0b001#3) :
    decodeWith p w = .instr (.slli (rdOf w) (rs1Of w) (shamtOf w)) ↔ (selectAlt p false (funct7Of w)).isSome = true := by
  rw [decodeWith_of_opImm ho]
  cases hsel : selectAlt p false (funct7Of w) <;> simp [decodeOpImm, h3, hsel]

theorem decodeWith_eq_srli_and_srai_iff (p : DecodeMode) (ho : opcodeOf w = 0b0010011#7) (h3 : funct3Of w = 0b101#3) :
    (decodeWith p w = .instr (.srli (rdOf w) (rs1Of w) (shamtOf w)) ↔ selectAlt p true (funct7Of w) = some false) ∧
    (decodeWith p w = .instr (.srai (rdOf w) (rs1Of w) (shamtOf w)) ↔ selectAlt p true (funct7Of w) = some true) := by
  rw [decodeWith_of_opImm ho]
  rcases hsel : selectAlt p true (funct7Of w) with _ | _ | _ <;> simp [decodeOpImm, h3, hsel]

end

/-! ## The operations on numbers (R13, R131, R132, R136 to R138) -/

theorem boolWord_unsignedLess (a b : Word) :
    boolWord (unsignedLess a b) = if a.toNat < b.toNat then 1#32 else 0#32 := by
  simp [boolWord, unsignedLess]

theorem boolWord_signedLess (a b : Word) : boolWord (signedLess a b) = if a.toInt < b.toInt then 1#32 else 0#32 := by
  simp [boolWord, signedLess]

/-- The immediate is the same signed number before and after its sign extension (R12, R63). -/
theorem immI_toInt (imm : BitVec 12) : (immI imm).toInt = imm.toInt := BitVec.toInt_signExtend_of_le (by decide)

/-- A left shift multiplies by a power of two, modulo 2^32. -/
theorem shiftLeft_eq_ofNat (a : Word) (k : Nat) : a <<< k = BitVec.ofNat 32 (a.toNat * 2 ^ k) := by
  apply BitVec.eq_of_toNat_eq
  rw [BitVec.toNat_shiftLeft, BitVec.toNat_ofNat, Nat.shiftLeft_eq]

/-- A logical right shift divides the unsigned number by a power of two. -/
theorem ushiftRight_eq_ofNat (a : Word) (k : Nat) : a >>> k = BitVec.ofNat 32 (a.toNat / 2 ^ k) := by
  apply BitVec.eq_of_toNat_eq
  rw [← Nat.shiftRight_eq_div_pow, ← BitVec.toNat_ushiftRight, BitVec.ofNat_toNat, BitVec.setWidth_eq]

/-- An arithmetic right shift divides the signed number by a power of two, rounding down. -/
theorem sshiftRight_eq_ofInt (a : Word) (k : Nat) : a.sshiftRight k = BitVec.ofInt 32 (a.toInt / 2 ^ k) := by
  rw [BitVec.sshiftRight_eq, Int.shiftRight_eq_div_pow, Nat.cast_pow, Nat.cast_ofNat]

/-! ## The statements -/

/-- Settles O21: each operation's funct3 selects it alone, and it commits its one result. -/
theorem immediateArithmeticAndLogic : Obligations.ImmediateArithmeticAndLogic := by
  refine ⟨?addi, ?sltiu, ?xori, ?ori, ?andi, fun rd rs1 imm => ⟨?_, ?_, ?_, ?_, ?_⟩⟩
  case addi | sltiu | xori | ori | andi =>
    exact decodesTo_of_decodeOpImm fun p w h3 => by simp [decodeOpImm, h3]
  · exact completes_of_commit_reg rfl (exec_addi rd rs1 imm)
  · simp only [← boolWord_unsignedLess]
    exact completes_of_commit_reg rfl (exec_sltiu rd rs1 imm)
  · exact completes_of_commit_reg rfl (exec_xori rd rs1 imm)
  · exact completes_of_commit_reg rfl (exec_ori rd rs1 imm)
  · exact completes_of_commit_reg rfl (exec_andi rd rs1 imm)

/-- Settles O22: SLT's funct3 has no alternative, and both compare as signed numbers, the immediate's sign kept by its
extension. -/
theorem signedSetLessThan : Obligations.SignedSetLessThan := by
  refine ⟨?_, ?_, fun rd rs1 imm => ?_, fun rd rs1 rs2 => ?_⟩
  · exact decodesTo_of_decodeOpImm fun p w h3 => by simp [decodeOpImm, h3]
  · exact selectedWhen_of_no_alternative fun p _ => decodeWith_eq_slt_iff p
  · simp only [← immI_toInt, ← boolWord_signedLess]
    exact completes_of_commit_reg rfl (exec_slti rd rs1 imm)
  · simp only [← boolWord_signedLess]
    exact completes_of_commit_reg rfl (exec_slt rd rs1 rs2)

/-- Settles O23: SLLI's funct3 has no alternative, SRLI's has SRAI, and each shift multiplies or divides by a power of two. -/
theorem immediateShifts : Obligations.ImmediateShifts := by
  refine ⟨?_, ?_, ?_, fun rd rs1 sh => ⟨?_, ?_, ?_⟩⟩
  · exact selectedWhen_of_no_alternative fun p _ => decodeWith_eq_slli_iff p
  · exact selectedWhen_of_alternative false fun p _ ho h3 => (decodeWith_eq_srli_and_srai_iff p ho h3).1
  · exact selectedWhen_of_alternative true fun p _ ho h3 => (decodeWith_eq_srli_and_srai_iff p ho h3).2
  · simp only [← shiftLeft_eq_ofNat]
    exact completes_of_commit_reg rfl (exec_slli rd rs1 sh)
  · simp only [← ushiftRight_eq_ofNat]
    exact completes_of_commit_reg rfl (exec_srli rd rs1 sh)
  · simp only [← sshiftRight_eq_ofInt]
    exact completes_of_commit_reg rfl (exec_srai rd rs1 sh)

end Sys2Proof.Machine
end

section
/-! Proofs of the statements of 44_alu_register.md: which OP words select an operation (R72, R74, R75), the register shift
amount (R160), and the register result of each operation (R150 to R159). SLT (R153) stands with SLTI. -/

namespace Sys2Proof.Machine

/-! ## The words of the operations (R72, R74, R75) -/

/-- An OP funct3 other than 000 and 101 has no alternative: if it decodes to `mk w` whenever a funct7 is accepted, then
STRICT accepts funct7 0000000 and LENIENT every one. -/
theorem selectedWhen_op_of_no_alternative {f3 : BitVec 3} {mk : Word → Instr}
    (halt : (f3 == 0b000#3 || f3 == 0b101#3) = false)
    (h : ∀ p w b, funct3Of w = f3 → selectAlt p false (funct7Of w) = some b → decodeOp p w = .instr (mk w)) :
    SelectedWhen 0b0110011#7 f3 (fun w => funct7Of w = 0b0000000#7) (fun _ => True) mk := by
  refine selectedWhen_of_no_alternative fun p w ho h3 => ?_
  rw [decodeWith_of_op ho]
  cases hsel : selectAlt p false (funct7Of w) with
  | none => simp [decodeOp, h3, halt, hsel]
  | some b => simp [h p w b h3 hsel]

section
variable {w : Word}

theorem decodeWith_eq_add_and_sub_iff (p : DecodeMode) (ho : opcodeOf w = 0b0110011#7) (h3 : funct3Of w = 0b000#3) :
    (decodeWith p w = .instr (.add (rdOf w) (rs1Of w) (rs2Of w)) ↔ selectAlt p true (funct7Of w) = some false) ∧
    (decodeWith p w = .instr (.sub (rdOf w) (rs1Of w) (rs2Of w)) ↔ selectAlt p true (funct7Of w) = some true) := by
  rw [decodeWith_of_op ho]
  rcases hsel : selectAlt p true (funct7Of w) with _ | _ | _ <;> simp [decodeOp, h3, hsel]

theorem decodeWith_eq_srl_and_sra_iff (p : DecodeMode) (ho : opcodeOf w = 0b0110011#7) (h3 : funct3Of w = 0b101#3) :
    (decodeWith p w = .instr (.srl (rdOf w) (rs1Of w) (rs2Of w)) ↔ selectAlt p true (funct7Of w) = some false) ∧
    (decodeWith p w = .instr (.sra (rdOf w) (rs1Of w) (rs2Of w)) ↔ selectAlt p true (funct7Of w) = some true) := by
  rw [decodeWith_of_op ho]
  rcases hsel : selectAlt p true (funct7Of w) with _ | _ | _ <;> simp [decodeOp, h3, hsel]

end

/-! ## The shift amount (R160) -/

/-- Masking to the low 5 bits is the remainder modulo 32 (92_eei_decisions.md D14). -/
theorem shiftAmount_eq_mod (b : Word) : shiftAmount b = b.toNat % 32 := by
  rw [shiftAmount, BitVec.toNat_and]
  exact Nat.and_two_pow_sub_one_eq_mod b.toNat 5

/-! ## The statements -/

/-- Settles O24: ADD and SUB share a funct3, each other operation's has no alternative, and each commits its one result. -/
theorem registerArithmeticAndLogic : Obligations.RegisterArithmeticAndLogic := by
  refine ⟨?_, ?_, ?sltu, ?xor, ?or, ?and, fun rd rs1 rs2 => ⟨?_, ?_, ?_, ?_, ?_, ?_⟩⟩
  case sltu | xor | or | and =>
    exact selectedWhen_op_of_no_alternative rfl fun p w b h3 hsel => by simp [decodeOp, h3, hsel]
  · exact selectedWhen_of_alternative false fun p _ ho h3 => (decodeWith_eq_add_and_sub_iff p ho h3).1
  · exact selectedWhen_of_alternative true fun p _ ho h3 => (decodeWith_eq_add_and_sub_iff p ho h3).2
  · exact completes_of_commit_reg rfl (exec_add rd rs1 rs2)
  · exact completes_of_commit_reg rfl (exec_sub rd rs1 rs2)
  · simp only [← boolWord_unsignedLess]
    exact completes_of_commit_reg rfl (exec_sltu rd rs1 rs2)
  · exact completes_of_commit_reg rfl (exec_xor rd rs1 rs2)
  · exact completes_of_commit_reg rfl (exec_or rd rs1 rs2)
  · exact completes_of_commit_reg rfl (exec_and rd rs1 rs2)

/-- Settles O25: SLL's funct3 has no alternative, SRL's has SRA, and each shift multiplies or divides by the power of two
that the masked amount gives. -/
theorem registerShifts : Obligations.RegisterShifts := by
  refine ⟨?_, ?_, ?_, fun rd rs1 rs2 => ?_⟩
  · exact selectedWhen_op_of_no_alternative rfl fun p w b h3 hsel => by simp [decodeOp, h3, hsel]
  · exact selectedWhen_of_alternative false fun p _ ho h3 => (decodeWith_eq_srl_and_sra_iff p ho h3).1
  · exact selectedWhen_of_alternative true fun p _ ho h3 => (decodeWith_eq_srl_and_sra_iff p ho h3).2
  · simp only [← shiftAmount_eq_mod, ← shiftLeft_eq_ofNat, ← ushiftRight_eq_ofNat, ← sshiftRight_eq_ofInt]
    exact ⟨completes_of_commit_reg rfl (exec_sll rd rs1 rs2), completes_of_commit_reg rfl (exec_srl rd rs1 rs2),
      completes_of_commit_reg rfl (exec_sra rd rs1 rs2)⟩

end Sys2Proof.Machine
end

section
/-! Proofs of the statement of 45_branches.md: which words are a branch (R72), the condition each branch compares (R171 to
R176), and where it leaves pc (R170). -/

namespace Sys2Proof.Machine

/-! ## The words of the branches (R72) -/

/-- A BRANCH word's funct3 alone selects the branch. -/
theorem decodesTo_of_decodeBranch {f3 : BitVec 3} {mk : Word → Instr}
    (h : ∀ w, funct3Of w = f3 → decodeBranch w = .instr (mk w)) : DecodesTo 0b1100011#7 f3 mk :=
  fun _ w ho h3 => (decodeWith_of_branch ho).trans (h w h3)

/-! ## The conditions on numbers (R13, R173 to R176) -/

theorem signedLess_eq_true_iff (a b : Word) : signedLess a b = true ↔ a.toInt < b.toInt := decide_eq_true_iff

theorem unsignedLess_eq_true_iff (a b : Word) : unsignedLess a b = true ↔ a.toNat < b.toNat := decide_eq_true_iff

theorem not_signedLess_eq_true_iff (a b : Word) : (!signedLess a b) = true ↔ b.toInt ≤ a.toInt := by
  rw [Bool.not_eq_true', ← Bool.not_eq_true, signedLess_eq_true_iff, Int.not_lt]

theorem not_unsignedLess_eq_true_iff (a b : Word) : (!unsignedLess a b) = true ↔ b.toNat ≤ a.toNat := by
  rw [Bool.not_eq_true', ← Bool.not_eq_true, unsignedLess_eq_true_iff, Nat.not_lt]

/-! ## Where a branch leaves pc (R170) -/

/-- A branch target from pc' (R69, R170; 92_eei_decisions.md D2). -/
theorem branchTarget_eq (pc' : Word) (off : BitVec 13) :
    branchTarget pc' off = (pc' - 1#32) + BitVec.ofInt 32 (off.toInt / 4) := by
  rw [← branchTarget_advance]
  exact congrArg (branchTarget · off) (BitVec.sub_add_cancel pc' 1#32).symm

/-- Committing no register result changes pc at most. -/
theorem State.commit_onlyMovesPc (q : Option Word) (s : State) :
    s.OnlyMovesPc (s.commit { reg := none, pc := q }) (q.getD s.pc) :=
  ⟨fun r => by simp, by simp, by simp, fun k => by simp⟩

/-- An executed instruction that commits a branch target exactly when `c s` holds completes in every state; `cond` says `c` as
a proposition. -/
theorem completes_of_commit_branch {i : Instr} {off : BitVec 13} {c : State → Bool} {cond : State → Prop}
    (hst : statusOfInstr i = .executed)
    (h : ∀ s, exec i s = .next (s.commit { reg := none, pc := if c s then some (branchTarget s.pc off) else none }))
    (hc : ∀ s, c s = true ↔ cond s) :
    Completes i .executed fun s t =>
      (cond s → s.OnlyMovesPc t ((s.pc - 1#32) + BitVec.ofInt 32 (off.toInt / 4))) ∧
        (¬ cond s → s.OnlyMovesPc t s.pc) := by
  refine ⟨hst, fun s => ⟨_, h s, fun htaken => ?_, fun hnot => ?_⟩⟩
  · rw [if_pos ((hc s).2 htaken), ← branchTarget_eq]
    exact s.commit_onlyMovesPc (some (branchTarget s.pc off))
  · rw [if_neg (mt (hc s).1 hnot)]
    exact s.commit_onlyMovesPc none

/-! ## The statement -/

/-- Settles O26: each branch's funct3 selects it alone, and it commits its target exactly when its condition holds. -/
theorem branchesCompareAndMovePc : Obligations.BranchesCompareAndMovePc := by
  refine ⟨⟨?beq, fun rs1 rs2 off => ?_⟩, ⟨?bne, fun rs1 rs2 off => ?_⟩, ⟨?blt, fun rs1 rs2 off => ?_⟩,
    ⟨?bge, fun rs1 rs2 off => ?_⟩, ⟨?bltu, fun rs1 rs2 off => ?_⟩, ⟨?bgeu, fun rs1 rs2 off => ?_⟩⟩
  case beq | bne | blt | bge | bltu | bgeu =>
    exact decodesTo_of_decodeBranch fun w h3 => by simp [decodeBranch, h3]
  · exact completes_of_commit_branch rfl (exec_beq rs1 rs2 off) fun _ => beq_iff_eq
  · exact completes_of_commit_branch rfl (exec_bne rs1 rs2 off) fun _ => bne_iff_ne
  · exact completes_of_commit_branch rfl (exec_blt rs1 rs2 off) fun _ => signedLess_eq_true_iff _ _
  · exact completes_of_commit_branch rfl (exec_bge rs1 rs2 off) fun _ => not_signedLess_eq_true_iff _ _
  · exact completes_of_commit_branch rfl (exec_bltu rs1 rs2 off) fun _ => unsignedLess_eq_true_iff _ _
  · exact completes_of_commit_branch rfl (exec_bgeu rs1 rs2 off) fun _ => not_unsignedLess_eq_true_iff _ _

end Sys2Proof.Machine
end

section
/-! Proofs of the statements of 46_unimplemented.md: the words of the loads and stores (R190 to R197) and of R201 to R205,
whose one effect is `unimplemented()`, and the run through a zero-filled tail (R200). -/

namespace Sys2Proof.Machine

/-! ## A run through a zero-filled tail (R200) -/

/-- The zero word has no recognized opcode, so its step only advances pc and reports Unimplemented (R199, R200). -/
theorem step_of_zero_word {s : State} (hf : s.fetch = some 0) :
    ∃ u, step s = .next u ∧ s.OnlyMovesPc u (s.pc + 1) ∧
      s.report = some { idx := s.pc, w := 0, status := .unimplemented } := by
  have hstatus : statusOfDecoded (decodeWith Config.decodeMode 0) = .unimplemented :=
    statusOfDecoded_of_not_recognized (by decide)
  exact ⟨_, stepWith_of_unimplemented hf hstatus, s.advance_commit_onlyMovesPc,
    hstatus ▸ State.reportWith_of_fetch _ hf⟩

/-- The pc of a Running core advances without wrapping (R8, R92; 92_eei_decisions.md D3). -/
theorem pc_add_one_toNat {s : State} (hcap : s.capacity ≤ 2 ^ 30) (hrun : s.pc.toNat < s.capacity) :
    (s.pc + 1).toNat = s.pc.toNat + 1 :=
  BitVec.toNat_add_of_lt (y := 1#32) (by simp; omega)

/-- Settles O34, by induction on the number of words from pc to the end of the store: each step reads a zero word and leaves
one word fewer. -/
theorem zeroTailRunsToHalt : Obligations.ZeroTailRunsToHalt := by
  intro s hcap hpc hzero
  induction hn : s.capacity - s.pc.toNat generalizing s with
  | zero =>
    have hend : s.pc.toNat = s.capacity := by omega
    exact ⟨s, [], State.runFor_of_halted 0 (s.running_eq_false_iff.2 hend.ge), hend, fun _ => rfl, rfl, rfl, rfl, nofun⟩
  | succ n ih =>
    have hrun : s.pc.toNat < s.capacity := by omega
    have hf : s.fetch = some 0 := (s.fetch_eq_some 0).2 ⟨hrun, hzero _ le_rfl hrun⟩
    obtain ⟨u, hstep, ⟨hureg, hupc, hucap, -⟩, hreport⟩ := step_of_zero_word hf
    have hustore : u.store = s.store := stepWith_store hstep
    have hnext : u.pc.toNat = s.pc.toNat + 1 := hupc ▸ pc_add_one_toNat hcap hrun
    have htail : ∀ i, u.pc.toNat ≤ i → i < u.capacity → Memory.read u.store i = 0 := by
      intro i hi hiu
      rw [hustore]
      exact hzero i (by omega) (by omega)
    obtain ⟨t, rs, ht, htpc, htreg, htstore, htcap, hlen, hrs⟩ := ih u (by omega) (by omega) htail (by omega)
    have hfirst : State.runFor (n + 1) s = .halted t ({ idx := s.pc, w := 0, status := .unimplemented } :: rs) := by
      rw [State.runFor_succ n (s.running_iff.2 hrun) hstep hreport, ht]
    exact ⟨t, _, hfirst, htpc.trans hucap, fun r => (htreg r).trans (hureg r), htstore.trans hustore, htcap.trans hucap,
      congrArg (· + 1) hlen, List.forall_mem_cons.2 ⟨⟨rfl, rfl⟩, hrs⟩⟩

/-! ## `unimplemented()` (R73, R190 to R205) -/

/-- A word's funct3 selects its instruction at an opcode whose decoder `d` looks at funct3 alone. -/
theorem decodesTo_of_opcode_decoder {op : BitVec 7} {f3 : BitVec 3} {d : Word → Decoded} {mk : Word → Instr}
    (hop : ∀ p w, opcodeOf w = op → decodeWith p w = d w) (h : ∀ w, funct3Of w = f3 → d w = .instr (mk w)) :
    DecodesTo op f3 mk :=
  fun p w ho h3 => (hop p w ho).trans (h w h3)

/-- An instruction whose status is Unimplemented completes in every state and changes nothing: pc stays pc'. -/
theorem completes_of_unimplemented {i : Instr} (h : statusOfInstr i = .unimplemented) :
    Completes i .unimplemented fun s t => s.OnlyMovesPc t s.pc :=
  ⟨h, fun s => ⟨_, exec_of_unimplemented i s h, s.commit_onlyMovesPc none⟩⟩

/-! ## The statements on single instructions -/

/-- Settles O27: LOAD's and STORE's funct3 selects each, and each has status Unimplemented. -/
theorem loadsAndStoresAreNoOps : Obligations.LoadsAndStoresAreNoOps := by
  refine ⟨?lb, ?lh, ?lw, ?lbu, ?lhu, ?sb, ?sh, ?sw, fun a b imm i hi => completes_of_unimplemented ?_⟩
  case lb | lh | lw | lbu | lhu =>
    exact decodesTo_of_opcode_decoder (fun _ _ => decodeWith_of_load) fun w h3 => by simp [decodeLoad, h3]
  case sb | sh | sw =>
    exact decodesTo_of_opcode_decoder (fun _ _ => decodeWith_of_store) fun w h3 => by simp [decodeStore, h3]
  · revert i
    simp [statusOfInstr]

/-- Settles O28: MISC-MEM's and SYSTEM's funct3 selects all but the words with SYSTEM funct3 000, which are decoded whole, and
each has status Unimplemented. -/
theorem systemAndFenceWordsAreNoOps : Obligations.SystemAndFenceWordsAreNoOps := by
  refine ⟨?fence, ?fenceI, ?csrrw, ?csrrs, ?csrrc, ?csrrwi, ?csrrsi, ?csrrci, fun p => ⟨rfl, rfl, rfl, rfl, rfl⟩,
    fun p w ho h3 h7 => ?sfenceVma, fun a b x u i hi => completes_of_unimplemented ?_⟩
  case fence | fenceI =>
    exact decodesTo_of_opcode_decoder (fun _ _ => decodeWith_of_miscMem) fun w h3 => by simp [decodeMiscMem, h3]
  case csrrw | csrrs | csrrc | csrrwi | csrrsi | csrrci =>
    exact decodesTo_of_opcode_decoder (fun _ _ => decodeWith_of_system) fun w h3 => by simp [decodeSystem, h3]
  case sfenceVma =>
    rw [decodeWith_of_system ho]
    refine ⟨statusOfDecoded_decodeSystem w, fun hrd => ?_⟩
    rw [decodeSystem, if_pos h3, decodePriv_of_sfenceVma h7 hrd]
  · revert i
    simp [statusOfInstr]

end Sys2Proof.Machine
end

section
/-! Proofs of the statements of 70_reset_and_hazards.md: what RESET (R240), LOAD (R241, R242) and RUN leave, which move of core
and host is possible when (R245, R246), and the invariant along every session. -/

namespace Sys2Proof.Machine

/-! ## RESET (R8, R240) -/

/-- RESET accepts exactly the capacities up to 2^30 (R8). -/
theorem State.resetTo_eq_some_iff {c : Nat} {s : State} :
    State.resetTo c = some s ↔ c ≤ 2 ^ 30 ∧ State.construct c = s := by
  rw [State.resetTo, Option.ite_none_right_eq_some, Option.some_inj, Config.maxCapacity]

theorem State.construct_inv {c : Nat} (h : c ≤ 2 ^ 30) : (State.construct c).Inv :=
  ⟨rfl, rfl, by simp, h⟩

theorem State.inv_of_resetTo {c : Nat} {s : State} (h : State.resetTo c = some s) : s.Inv := by
  obtain ⟨hc, rfl⟩ := State.resetTo_eq_some_iff.1 h
  exact State.construct_inv hc

/-- Settles O2: `State.reset` is what RESET of the default capacity answers. -/
theorem resetMeetsInvariant : Obligations.ResetMeetsInvariant := by
  have hreset : State.resetTo 1024 = some State.reset := State.resetTo_of_le (by decide)
  exact ⟨hreset, State.inv_of_resetTo hreset, fun _ _ => State.inv_of_resetTo⟩

/-! ## LOAD (R242) -/

/-- Copying words into `[0, c)` keeps every entry there (R40, R49). -/
theorem Memory.below_writeFrom {c i : Nat} {m : Memory} (ws : List Word) (h : Memory.below c m = true)
    (hi : i + ws.length ≤ c) : Memory.below c (Memory.writeFrom m i ws) = true := by
  induction ws generalizing m i with
  | nil => exact h
  | cons w ws ih =>
    rw [List.length_cons] at hi
    exact ih (Memory.below_write c m i w h (by omega)) (by omega)

/-- Words copied from index `k` on stand at `k` and after it, and every other index reads as before. -/
theorem Memory.read_writeFrom {m : Memory} (ws : List Word) (k i : Nat) (h : Memory.wf m = true) :
    Memory.read (Memory.writeFrom m k ws) i = if i < k then Memory.read m i else ws.getD (i - k) (Memory.read m i) := by
  induction ws generalizing m k with
  | nil => simp [Memory.writeFrom]
  | cons w ws ih =>
    rw [Memory.writeFrom, ih (k + 1) (Memory.wf_write m k w h), Memory.read_write m k i w h]
    obtain hlt | rfl | hgt := lt_trichotomy i k
    · rw [if_pos (by omega), if_neg hlt.ne, if_pos hlt]
    · simp
    · have hsucc : i - k = i - (k + 1) + 1 := by omega
      rw [if_neg (by omega), if_neg hgt.ne', if_neg (by omega), hsucc, List.getD_cons_succ]

section
variable {s : State} {words : List Word}

/-- A program longer than the capacity is rejected. -/
theorem State.load_of_lt (h : s.capacity < words.length) : s.load words = (.programTooLarge, s) := if_pos h

/-- A program that fits is copied to index 0. -/
theorem State.load_of_le (h : words.length ≤ s.capacity) :
    s.load words = (.ok, { s with store := Memory.writeFrom s.store 0 words }) := if_neg h.not_gt

end

@[simp] theorem State.load_regs (words : List Word) (s : State) : (s.load words).2.regs = s.regs := by
  rw [State.load]
  split <;> rfl

/-- Settles O4: an accepted program is copied inside `[0, C)`, which keeps the store canonical. -/
theorem loadKeepsInvariant : Obligations.LoadKeepsInvariant := by
  intro s words hs
  obtain hlt | hle := lt_or_ge s.capacity words.length
  · rwa [State.load_of_lt hlt]
  · obtain ⟨hwf, hbelow, hx0, hcap⟩ := hs
    rw [State.load_of_le hle]
    have hfits : 0 + words.length ≤ s.capacity := by rwa [Nat.zero_add]
    exact ⟨Memory.wf_writeFrom words s.store 0 hwf, Memory.below_writeFrom words hbelow hfits, hx0, hcap⟩

/-- Settles O43: the words are copied from index 0 on. -/
theorem loadWritesTheProgramOrNothing : Obligations.LoadWritesTheProgramOrNothing := by
  refine fun s words hwf => ⟨State.load_of_lt, fun hle =>
    ⟨?_, fun i => ?_, s.load_pc words, s.load_regs words, s.load_capacity words⟩⟩
  · rw [State.load_of_le hle]
  · rw [State.load_of_le hle, Memory.read_writeFrom words 0 i hwf, if_neg i.not_lt_zero, Nat.sub_zero]

/-! ## What a RUN keeps (R241, R106) -/

/-- The state a fuel-bounded RUN came to. -/
def RunResult.state : RunResult → State
  | .halted t _ | .outOfFuel t _ | .noStep t _ => t

/-- What every step keeps, RUN keeps, however far its fuel takes it. -/
theorem State.runFor_state_of_step {P : State → Prop} (hstep : ∀ s t, P s → step s = .next t → P t) (n : Nat) {s : State}
    (hs : P s) : P (State.runFor n s).state := by
  induction n generalizing s with
  | zero =>
    cases hrun : s.running
    · rwa [State.runFor_of_halted 0 hrun]
    · rwa [State.runFor_zero_of_running hrun]
  | succ n ih =>
    cases hrun : s.running
    · rwa [State.runFor_of_halted _ hrun]
    · obtain ⟨t, r, ht, hr⟩ := step_of_running hrun
      have hrest : P (State.runFor n t).state := ih (hstep s t hs ht)
      rw [State.runFor_succ n hrun ht hr]
      cases hu : State.runFor n t <;> rwa [hu] at hrest

/-- Settles O37: a RUN keeps the capacity and the store because each of its steps does. -/
theorem capacityIsFixedAndOnlyLoadWritesTheStore : Obligations.CapacityIsFixedAndOnlyLoadWritesTheStore := by
  refine ⟨fun p s t h => ⟨stepWith_capacity h, stepWith_store h⟩, fun s words => s.load_capacity words, fun n s t rs h => ?_⟩
  have hkeep : (State.runFor n s).state.capacity = s.capacity ∧ (State.runFor n s).state.store = s.store :=
    State.runFor_state_of_step (P := fun u => u.capacity = s.capacity ∧ u.store = s.store)
      (fun u v ⟨hcap, hstore⟩ hv => ⟨(stepWith_capacity hv).trans hcap, (stepWith_store hv).trans hstore⟩) n ⟨rfl, rfl⟩
  obtain h | h := h <;> rwa [h] at hkeep

/-! ## Which moves are possible, and what each does (R245, R246) -/

section
variable {x y : Session} {a : Answer}

theorem Session.move_reset_eq_some_iff {c : Nat} : x.move (.reset c) = some (a, y) ↔
    x.inRun = false ∧ c ≤ 2 ^ 30 ∧ a = .nothing ∧ y = { core := State.construct c, inRun := false } := by
  obtain ⟨s, _ | _⟩ := x
  · simp [State.resetTo_eq_some_iff, and_assoc, eq_comm (b := a), eq_comm (b := y)]
  · simp

theorem Session.move_load_eq_some_iff {words : List Word} : x.move (.load words) = some (a, y) ↔
    x.inRun = false ∧ a = .loaded (x.core.load words).1 ∧ y = { core := (x.core.load words).2, inRun := false } := by
  obtain ⟨s, _ | _⟩ := x
  · simp [eq_comm (b := a), eq_comm (b := y)]
  · simp

theorem Session.move_readReg_eq_some_iff {r : RegIx} : x.move (.readReg r) = some (a, y) ↔
    x.inRun = false ∧ a = .value (x.core.readReg r) ∧ y = x := by
  obtain ⟨s, _ | _⟩ := x
  · simp [eq_comm (b := a), eq_comm (b := y)]
  · simp

theorem Session.move_startRun_eq_some_iff : x.move .startRun = some (a, y) ↔
    x.inRun = false ∧ a = .nothing ∧ y = { core := x.core, inRun := true } := by
  obtain ⟨s, _ | _⟩ := x
  · simp [eq_comm (b := a), eq_comm (b := y)]
  · simp

/-- A Halted core has no step (R90), and a Running one has exactly its step. -/
theorem Session.move_step_eq_some_iff : x.move .step = some (a, y) ↔
    x.inRun = true ∧ ∃ r t, x.core.report = some r ∧ step x.core = .next t ∧ a = .report r ∧
      y = { core := t, inRun := true } := by
  obtain ⟨s, _ | _⟩ := x
  · simp
  · cases hrun : s.running with
    | false =>
      have hfault : step s = .fault .halted := stepWith_of_halted _ (s.running_eq_false_iff.1 hrun)
      simp [Session.move_step_of_halted hrun, hfault]
    | true =>
      obtain ⟨t, r, ht, hr⟩ := step_of_running hrun
      simp [Session.move_step ht hr, ht, hr, eq_comm (b := a), eq_comm (b := y)]

theorem Session.move_returnRun_eq_some_iff : x.move .returnRun = some (a, y) ↔
    x.inRun = true ∧ x.core.running = false ∧ a = .nothing ∧ y = { core := x.core, inRun := false } := by
  obtain ⟨s, _ | _⟩ := x
  · simp
  · simp [Session.move_returnRun, eq_comm (b := a), eq_comm (b := y)]

end

/-- Settles O46, move by move: a step is possible exactly when it is enabled (R90), every other move when its own rule says. -/
theorem hostActsOnlyBetweenRuns : Obligations.HostActsOnlyBetweenRuns := by
  intro x m
  cases m with
  | reset c => simp [Session.move_reset_eq_some_iff]
  | load words => simp [Session.move_load_eq_some_iff]
  | readReg r => simp [Session.move_readReg_eq_some_iff]
  | startRun => simp [Session.move_startRun_eq_some_iff]
  | step =>
    obtain ⟨-, -, hstep⟩ := stepIsEnabledExactlyWhenRunningInARun x
    simp [hstep, State.running_iff, and_comm]
  | returnRun => simp [Session.move_returnRun_eq_some_iff, State.running_eq_false_iff]

/-- Settles O47, move by move. -/
theorem movesDoWhatTheHostTableSays : Obligations.MovesDoWhatTheHostTableSays := by
  intro x y a
  refine ⟨fun c h => ?reset, fun words h => ?load, fun r h => ?readReg, fun h => ?startRun, fun h => ?step,
    fun h => ?returnRun⟩
  case reset =>
    obtain ⟨-, hc, rfl, rfl⟩ := Session.move_reset_eq_some_iff.1 h
    exact ⟨rfl, State.resetTo_of_le hc, rfl⟩
  case load =>
    obtain ⟨-, rfl, rfl⟩ := Session.move_load_eq_some_iff.1 h
    exact ⟨rfl, rfl, rfl, x.core.load_regs words, x.core.load_pc words, x.core.load_capacity words⟩
  case readReg =>
    obtain ⟨-, rfl, rfl⟩ := Session.move_readReg_eq_some_iff.1 h
    exact ⟨rfl, rfl⟩
  case startRun =>
    obtain ⟨-, rfl, rfl⟩ := Session.move_startRun_eq_some_iff.1 h
    exact ⟨rfl, rfl, rfl⟩
  case step =>
    obtain ⟨-, r, t, hr, ht, rfl, rfl⟩ := Session.move_step_eq_some_iff.1 h
    exact ⟨⟨r, rfl, hr⟩, ht, rfl, stepWith_store ht, stepWith_capacity ht⟩
  case returnRun =>
    obtain ⟨-, hhalt, rfl, rfl⟩ := Session.move_returnRun_eq_some_iff.1 h
    exact ⟨rfl, rfl, rfl, hhalt⟩

/-! ## The invariant along every session (R246, R247) -/

/-- Settles O5, by induction on the session: RESET gives the invariant, and LOAD and a step keep it; every other move keeps the
core. -/
theorem reachableStatesMeetInvariant : Obligations.ReachableStatesMeetInvariant := by
  intro x hx
  induction hx with
  | reset h => exact State.inv_of_resetTo h
  | move _ hm ih =>
    obtain ⟨c, hreset⟩ | ⟨words, hload⟩ | hsame | hstep := Session.move_core hm
    · exact State.inv_of_resetTo hreset
    · exact hload ▸ loadKeepsInvariant _ words ih
    · rwa [hsame]
    · exact stepKeepsInvariant _ _ ih hstep

end Sys2Proof.Machine
end

section
/-! Proof of the statement on the example words of 41_upper_immediate.md to 46_unimplemented.md and 95_test_vectors.md. -/

namespace Sys2Proof

/-- A word that encodes a well-formed instruction decodes to it, under both values of P_DECODE. -/
theorem decodeWith_of_encode_eq {p : DecodeMode} {w : Word} {i : Instr} (hwf : i.wf = true) (h : encode i = w) :
    decodeWith p w = .instr i :=
  h ▸ decodeOfEncodeIsTheInstruction p i hwf

/-- Settles O16: each word is the encoding of its instruction. -/
theorem exampleWordsDecode : Obligations.ExampleWordsDecode := by
  intro p
  and_intros <;> exact decodeWith_of_encode_eq (by decide) (by decide)

end Sys2Proof
end
